-- ==== Sys2Proof/Word.lean ====
section
/-! DEFINITION. The words of the block: a byte, the integer operand port, a raw fixed-point word.
Bit 0 is the least significant bit of every word (R7). -/

namespace Sys2Proof

/-- A byte, `b[7:0]`, bit 7 its most significant bit (R7). -/
abbrev Byte := BitVec 8

/-- What stands on the integer operand port `IA`, as the unsigned integer its wires denote: the port's width is the parameter
`W_INT` (R6, R25), so only the low `W_INT` bits of the number are wires and nothing reads the others (log 1). -/
abbrev IntPort := Nat

/-- The raw fixed-point word of a decoder: 20 bits (R26). -/
abbrev Raw := BitVec 20

end Sys2Proof
end

