-- ==== Sys2Proof/Config.lean ====
section
/-! DEFINITION. The implementation parameters of the block (R6), each a named field with the spec's default,
and the free values of the model: what the bus and the sensor answer where the state lists no answer. -/

namespace Sys2Proof

/-- `BAR_IN_OVERFLOW` (R6, D11): what ENC_BAR_IN does when the halved pressure exceeds 0xFFFF. -/
inductive BarInOverflow where
  | refuse
  | wrap
  deriving DecidableEq, Repr

/-- `PRES_OFF_ROUND` (R6, D8): the rounding of offset/4 in ENC_OFF_P. -/
inductive PresOffRound where
  | trunc
  | floor
  deriving DecidableEq, Repr

/-- `TEMP_OFF_ROUND` (R6, D9): the rounding of offset×16 in ENC_OFF_T. -/
inductive TempOffRound where
  | trunc
  | floor
  | nearest
  deriving DecidableEq, Repr

/-- `OFF_H_WIDE` (R6, D10): ENC_OFF_H outside [-128,127]. The spec gives it one value. -/
inductive OffHWide where
  | refuse
  deriving DecidableEq, Repr

/-- `TEMP_OFFSET_TARGET` (R6, R198, D12): the register ENC_OFF_T names as its target. -/
inductive TempOffsetTarget where
  | offTemp   -- 0x2C, the default
  | offPres   -- 0x2B, source-compatible
  deriving DecidableEq, Repr

/-- `TEMP_IN_FORMAT` (R6, D7): the representation of `QA`. The spec gives it one value. -/
inductive TempInFormat where
  | rational
  deriving DecidableEq, Repr

/-- The parameters of R6. The field defaults are the column "this spec" of R6. -/
structure Config where
  /-- `W_INT` (D6): the width of the integer operand port `IA`, two's complement. D6 lets it be 18 or more. -/
  wInt             : Nat := 32
  tempInFormat     : TempInFormat := .rational
  presOffRound     : PresOffRound := .trunc
  tempOffRound     : TempOffRound := .trunc
  offHWide         : OffHWide := .refuse
  barInOverflow    : BarInOverflow := .refuse
  tempOffsetTarget : TempOffsetTarget := .offTemp
  /-- `POLL_INTERVAL` (host only, D30): OPEN, so `none`; no rule depends on it (R271). -/
  pollInterval     : Option Nat := none
  /-- `POLL_MAX` (host only, D30): OPEN, so `none`, the unbounded poll (R241, R270). -/
  pollMax          : Option Nat := none
  deriving DecidableEq, Repr

/-- FREE VALUE (log 7): how the bus answers the n-th bus call that the state lists no answer for;
`none` is success, `some e` a failure the bus reports as `e` (R236: "All bus operations may fail"). -/
opaque Config.freeBusReply : Nat → Option Nat

/-- FREE VALUE (log 7): the byte the device returns at the n-th read that the state lists no byte for
(R262, U12 to U15: any value). -/
opaque Config.freeDeviceByte : Nat → BitVec 8

end Sys2Proof
end

