-- ==== Sys2Proof/Syntax.lean ====
section
/-! DEFINITION. The operations of the block, one constructor per row of the opcode table (R71), and the
request format they are presented in (R25, R70). -/

namespace Sys2Proof

/-- The 17 operations of R71, with their operands in the order of the "reads" column (R76). An integer operand
is the signed integer `sint_32(IA)` (R73; 32 is the default `W_INT`, R6); the temperature operand is the exact rational `QA` (R73, D7). -/
inductive Instr where
  | decQ16_4  (b0 b1 b2 : Byte)                     -- 0x00, R101
  | decQ18_2  (b0 b1 b2 : Byte)                     -- 0x01, R104
  | decQ8_4   (b0 b1 : Byte)                        -- 0x02, R107
  | encOs     (os : Int)                            -- 0x03, R131
  | encAlt    (alt : Bool)                          -- 0x04, R132
  | encRst    (rst : Bool)                          -- 0x05, R133
  | encSbyb   (active : Bool)                       -- 0x06, R134
  | encEvent  (temp pres : Bool)                    -- 0x07, R135
  | encCtrl1  (os : Int) (alt rst active : Bool)    -- 0x08, R136
  | decCtrl1  (b : Byte)                            -- 0x09, R160
  | decStatus (b : Byte)                            -- 0x0A, R162
  | regWidth  (addr : Byte)                         -- 0x0B, R164
  | encBarIn  (pa : Int)                            -- 0x0C, R191
  | defSlp                                          -- 0x0D, R193
  | encOffH   (metres : Int)                        -- 0x0E, R194
  | encOffP   (pa : Int)                            -- 0x0F, R195
  | encOffT   (celsius : Rat)                       -- 0x10, R197
  deriving DecidableEq, Repr

/-- An operation request: what stands on the input ports, all presented together (R25, R70). -/
structure Request where
  op : BitVec 5
  b0 : Byte
  b1 : Byte
  b2 : Byte
  ia : IntPort
  qa : Rat
  fa : Bool
  fb : Bool
  fc : Bool
  deriving DecidableEq, Repr

end Sys2Proof
end

