-- ==== Sys2Proof/WellFormed.lean ====
section
/-! DEFINITION. Which instructions can be presented: an integer operand must fit the port `IA` (D6: "a value
outside 32 bits cannot be presented", 32 being the default `W_INT`). Every byte, Boolean and rational operand can (R73). -/

namespace Sys2Proof

/-- The integer fits a two's complement port of `w` = `W_INT` bits (R25, R73): i ∈ [-2^(w-1), 2^(w-1) - 1]. -/
def fitsIntPort (w : Nat) (i : Int) : Bool := decide (-(2 ^ w) ≤ 2 * i ∧ 2 * i < 2 ^ w)

/-- The check for ports of `w` = `W_INT` bits, constructor by constructor. -/
def Instr.wf (w : Nat) : Instr → Bool
  | .decQ16_4 _ _ _ => true
  | .decQ18_2 _ _ _ => true
  | .decQ8_4 _ _ => true
  | .encOs os => fitsIntPort w os
  | .encAlt _ => true
  | .encRst _ => true
  | .encSbyb _ => true
  | .encEvent _ _ => true
  | .encCtrl1 os _ _ _ => fitsIntPort w os
  | .decCtrl1 _ => true
  | .decStatus _ => true
  | .regWidth _ => true
  | .encBarIn pa => fitsIntPort w pa
  | .defSlp => true
  | .encOffH metres => fitsIntPort w metres
  | .encOffP pa => fitsIntPort w pa
  | .encOffT _ => true

/-- An instruction that can be presented on the ports. -/
abbrev Instr.WellFormed (w : Nat) (i : Instr) : Prop := i.wf w = true

end Sys2Proof
end

