-- ==== Sys2Proof/Decode.lean ====
section
/-! DEFINITION. The decoder: total on every request, `OP` alone selects the operation (R71, R75), a reserved code
is rejected by name (R74). After it the encoder, the opcode table as data, and the host's word interface. -/

namespace Sys2Proof

/-- Why a request selects no operation: its `OP` is one of the reserved codes 0x11 to 0x1F (R74). -/
inductive DecodeError where
  | reservedOp (op : BitVec 5)
  deriving DecidableEq, Repr

/-- `sint_W(IA)`, W = `W_INT`: the integer operand, always read as signed (R9, R73). -/
def intOperand (w : Nat) (ia : IntPort) : Int := (BitVec.ofNat w ia).toInt

/-- `bits_W(i)`, W = `W_INT`: the integer on the port (R9). -/
def intPort (w : Nat) (i : Int) : IntPort := (BitVec.ofInt w i).toNat

/-- The decoder, for `w` = `W_INT` (R6, R71, R73, R75). No operand value changes which operation is selected. -/
def decode (w : Nat) (r : Request) : Except DecodeError Instr :=
  match r.op.toNat with
  | 0x00 => .ok (.decQ16_4 r.b0 r.b1 r.b2)
  | 0x01 => .ok (.decQ18_2 r.b0 r.b1 r.b2)
  | 0x02 => .ok (.decQ8_4 r.b0 r.b1)
  | 0x03 => .ok (.encOs (intOperand w r.ia))
  | 0x04 => .ok (.encAlt r.fa)
  | 0x05 => .ok (.encRst r.fa)
  | 0x06 => .ok (.encSbyb r.fa)
  | 0x07 => .ok (.encEvent r.fa r.fb)
  | 0x08 => .ok (.encCtrl1 (intOperand w r.ia) r.fa r.fb r.fc)
  | 0x09 => .ok (.decCtrl1 r.b0)
  | 0x0A => .ok (.decStatus r.b0)
  | 0x0B => .ok (.regWidth r.b0)
  | 0x0C => .ok (.encBarIn (intOperand w r.ia))
  | 0x0D => .ok .defSlp
  | 0x0E => .ok (.encOffH (intOperand w r.ia))
  | 0x0F => .ok (.encOffP (intOperand w r.ia))
  | 0x10 => .ok (.encOffT r.qa)
  | _ => .error (.reservedOp r.op)

/-- A request of code `op` with every operand port at zero. An encoder starts from it: the ports an operation does
not name are don't-care (R27, R76; log 13). -/
def Request.ofOp (op : BitVec 5) : Request :=
  { op := op, b0 := 0, b1 := 0, b2 := 0, ia := 0, qa := 0, fa := false, fb := false, fc := false }

/-- The encoder, for `w` = `W_INT`: `OP` is the code of R71, each named operand on its port (R76). -/
def encode (w : Nat) : Instr → Request
  | .decQ16_4 b0 b1 b2 => { Request.ofOp 0x00 with b0 := b0, b1 := b1, b2 := b2 }
  | .decQ18_2 b0 b1 b2 => { Request.ofOp 0x01 with b0 := b0, b1 := b1, b2 := b2 }
  | .decQ8_4 b0 b1 => { Request.ofOp 0x02 with b0 := b0, b1 := b1 }
  | .encOs os => { Request.ofOp 0x03 with ia := intPort w os }
  | .encAlt alt => { Request.ofOp 0x04 with fa := alt }
  | .encRst rst => { Request.ofOp 0x05 with fa := rst }
  | .encSbyb active => { Request.ofOp 0x06 with fa := active }
  | .encEvent temp pres => { Request.ofOp 0x07 with fa := temp, fb := pres }
  | .encCtrl1 os alt rst active => { Request.ofOp 0x08 with ia := intPort w os, fa := alt, fb := rst, fc := active }
  | .decCtrl1 b => { Request.ofOp 0x09 with b0 := b }
  | .decStatus b => { Request.ofOp 0x0A with b0 := b }
  | .regWidth addr => { Request.ofOp 0x0B with b0 := addr }
  | .encBarIn pa => { Request.ofOp 0x0C with ia := intPort w pa }
  | .defSlp => Request.ofOp 0x0D
  | .encOffH metres => { Request.ofOp 0x0E with ia := intPort w metres }
  | .encOffP pa => { Request.ofOp 0x0F with ia := intPort w pa }
  | .encOffT celsius => { Request.ofOp 0x10 with qa := celsius }

/-- One row of the machine-readable opcode table: the mnemonic, and the pattern the five bits of `OP` have (the mask
is 0x1F in every row, R71). -/
structure OpcodeRow where
  mnemonic : String
  pattern  : BitVec 5
  deriving DecidableEq, Repr

/-- R71's table, in its order. -/
def opcodeTable : List OpcodeRow :=
  [ ⟨"DEC_Q16_4", 0b00000⟩, ⟨"DEC_Q18_2", 0b00001⟩, ⟨"DEC_Q8_4", 0b00010⟩, ⟨"ENC_OS", 0b00011⟩,
    ⟨"ENC_ALT", 0b00100⟩, ⟨"ENC_RST", 0b00101⟩, ⟨"ENC_SBYB", 0b00110⟩, ⟨"ENC_EVENT", 0b00111⟩ ] ++
  [ ⟨"ENC_CTRL1", 0b01000⟩, ⟨"DEC_CTRL1", 0b01001⟩, ⟨"DEC_STATUS", 0b01010⟩, ⟨"REG_WIDTH", 0b01011⟩,
    ⟨"ENC_BAR_IN", 0b01100⟩, ⟨"DEF_SLP", 0b01101⟩, ⟨"ENC_OFF_H", 0b01110⟩, ⟨"ENC_OFF_P", 0b01111⟩,
    ⟨"ENC_OFF_T", 0b10000⟩ ]

/-- The mnemonic of R71 an instruction is written with (R76). -/
def Instr.mnemonic : Instr → String
  | .decQ16_4 _ _ _ => "DEC_Q16_4"
  | .decQ18_2 _ _ _ => "DEC_Q18_2"
  | .decQ8_4 _ _ => "DEC_Q8_4"
  | .encOs _ => "ENC_OS"
  | .encAlt _ => "ENC_ALT"
  | .encRst _ => "ENC_RST"
  | .encSbyb _ => "ENC_SBYB"
  | .encEvent _ _ => "ENC_EVENT"
  | .encCtrl1 _ _ _ _ => "ENC_CTRL1"
  | .decCtrl1 _ => "DEC_CTRL1"
  | .decStatus _ => "DEC_STATUS"
  | .regWidth _ => "REG_WIDTH"
  | .encBarIn _ => "ENC_BAR_IN"
  | .defSlp => "DEF_SLP"
  | .encOffH _ => "ENC_OFF_H"
  | .encOffP _ => "ENC_OFF_P"
  | .encOffT _ => "ENC_OFF_T"

/-- The request a table word stands for: bits 4:0 are `OP`, and the operand ports, to which the table gives no bits,
are zero. The bits above `OP` that fill the byte are no part of the request (log 16). -/
def requestOfWord (nbits w : Nat) : Request := Request.ofOp (BitVec.ofNat 5 (w % 2 ^ nbits))

/-- The host's word interface: the instruction the decoder reads from a table word, under the default `W_INT`. -/
def decodeTableWord (nbits w : Nat) : Option Instr :=
  match decode ({} : Config).wInt (requestOfWord nbits w) with
  | .ok i => some i
  | .error _ => none

end Sys2Proof
end

