-- ==== Sys2Proof/Machine/State.lean ====
section
/-! DEFINITION. The state of the machine: the ports of the block (R25, R26), its parameters (R6), and the host that
presents its requests with the bus it drives (R236 to R246). The block itself keeps nothing between requests
(R20 to R23): no register, no program counter, no flag, no memory. -/

namespace Sys2Proof.Machine

/-- The output ports (R26). `none` is "not a result": the port was not driven by the request evaluated last (R27),
or, after reset, no request was evaluated yet (log 4). -/
structure Outputs where
  err   : Option (BitVec 2)
  io    : Option (BitVec 32)
  fo    : Option (BitVec 4)
  raw   : Option Raw
  y0    : Option Byte
  y1    : Option Byte
  nb    : Option (BitVec 2)
  ao    : Option Byte
  av    : Option Bool
  oOs   : Option (BitVec 3)
  oAlt  : Option Bool
  oRst  : Option Bool
  oSbyb : Option Bool
  oPtdr : Option Bool
  oPdr  : Option Bool
  oTdr  : Option Bool
  deriving DecidableEq, Repr

/-- No port driven. -/
def Outputs.undriven : Outputs :=
  { err := none, io := none, fo := none, raw := none, y0 := none, y1 := none, nb := none, ao := none, av := none,
    oOs := none, oAlt := none, oRst := none, oSbyb := none, oPtdr := none, oPdr := none, oTdr := none }

/-- PressureMode of a measurement call (R237). -/
inductive PressureMode where
  | barometer
  | altimeter
  deriving DecidableEq, Repr

/-- The six bytes of the measurement read, in wire order (R55, R242). -/
structure MeasBlock where
  status : Byte
  pMsb   : Byte
  pCsb   : Byte
  pLsb   : Byte
  tMsb   : Byte
  tLsb   : Byte
  deriving DecidableEq, Repr

/-- The block as the wire carries it, first byte first (R55). -/
def MeasBlock.bytes (b : MeasBlock) : List Byte := [b.status, b.pMsb, b.pCsb, b.pLsb, b.tMsb, b.tLsb]

/-- What a caller can ask of the host: a measurement (R237), the additional operations (R245), or one request of its
own, presented as it stands (R2, R76). -/
inductive Call where
  | measure (os : IntPort) (mode : PressureMode)
  | reset
  | setSeaLevel (pa : IntPort)
  | getDefaultSeaLevel
  | compensateAltitude (metres : IntPort)
  | compensatePressure (pa : IntPort)
  | compensateTemperature (celsius : Rat)
  | request (r : Request)
  deriving DecidableEq, Repr

/-- Why a call failed: the document's validation error (R220), a bus error, handed on as the bus gave it (R227), the
timeout of a bounded poll (R241), or no result of the kind the host asked for on the ports (log 17). -/
inductive CallError where
  | range
  | bus (e : Nat)
  | timeout
  | noResult
  deriving DecidableEq, Repr

/-- What a call returns to its caller. -/
inductive CallResult where
  | measured (mode : PressureMode) (value temperature : Rat)   -- R243
  | written                                                    -- R245(a), (b), (d)
  | seaLevel (pa : Nat)                                        -- R245(c)
  | outputs (o : Outputs)                                      -- a request of the caller's own
  | failed (e : CallError)                                     -- R244
  deriving DecidableEq, Repr

/-- Where the host stands: the request it has on the ports and what it does with the result. The document's states
(R236) are `Phase.stage` in Machine/Driver.lean. -/
inductive Phase where
  | idle
  | configMode (os : IntPort) (mode : PressureMode)      -- R238
  | configEvent (os : IntPort) (mode : PressureMode)     -- R239
  | configActive (os : IntPort) (mode : PressureMode)    -- R240
  | polling (mode : PressureMode) (reads : Nat)          -- R241: `reads` status reads made
  | convertMain (mode : PressureMode) (block : MeasBlock)           -- R243
  | convertTemp (mode : PressureMode) (block : MeasBlock) (value : Rat)   -- R243
  | resetting                                            -- R245(a)
  | settingSeaLevel (pa : IntPort)                       -- R245(b)
  | gettingSeaLevel                                      -- R245(c)
  | compensatingAltitude (metres : IntPort)              -- R245(d)
  | compensatingPressure (pa : IntPort)                  -- R245(d)
  | compensatingTemperature (celsius : Rat)              -- R245(d)
  | requesting
  | done
  | failed
  deriving DecidableEq, Repr

/-- One action of the host on the bus or a sleep, in program order (R60, R236, R241). A sequential read says where it started. A
failure carries the bus's own
error. -/
inductive BusEvent where
  | write (bytes : List Byte) (error : Option Nat)             -- BusWrite; the first byte is the register address
  | readByte (addr value : Byte)                               -- readByte(registerAddress) -> value
  | readByteFailed (addr : Byte) (error : Nat)
  | readBytes (start : Option Byte) (bytes : List Byte)        -- BusRead(n), from the register addressed before
  | readBytesFailed (start : Option Byte) (count error : Nat)
  | sleep (interval : Option Nat)                              -- sleep(POLL_INTERVAL)
  deriving DecidableEq, Repr

/-- The machine. -/
structure State where
  /-- The parameters (R6): fixed at design time, read by the operations, written by none (log 2). -/
  cfg        : Config
  /-- The input ports (R25). -/
  req        : Request
  /-- The output ports (R26). -/
  out        : Outputs
  /-- Where the host stands (R236). -/
  phase      : Phase
  /-- Calls waiting, oldest first: one at a time (R246). -/
  calls      : List Call
  /-- What the finished calls returned, oldest first. -/
  results    : List CallResult
  /-- What the host did on the bus, oldest first (R60). -/
  trace      : List BusEvent
  /-- The register the bus addressed last, from which the next sequential read starts (R51, R236, R242); none where no register
  has been addressed, or it is not known which (log 26). -/
  cursor     : Option Byte
  /-- INPUT: how the bus answers its next calls; `none` is success. -/
  busReplies : List (Option Nat)
  /-- INPUT: the bytes the device returns to the next reads. -/
  devBytes   : List Byte
  /-- The model's own counter: the free values taken so far (log 8). -/
  freeCount  : Nat
  deriving DecidableEq, Repr

/-- Why a step stops with a fault: never. The spec has no trap, and an error is an output of the evaluation that met it
(R225), so the type has no constructor (log 10: safe). -/
inductive Fault where
  deriving DecidableEq, Repr

/-- Why a step is refused. -/
inductive Refusal where
  /-- Raised by exec for an instruction without a meaning; no instruction of this model is (safe). -/
  | notModelled (mnemonic : String)
  /-- Raised by ENC_BAR_IN for p < 0: R191 and R223(a) refuse the operand value (safe). -/
  | negativePressure
  /-- Raised by ENC_BAR_IN for p div 2 > 0xFFFF under `BAR_IN_OVERFLOW = refuse`: R191 and R223(b) (safe). -/
  | barInOverflow
  /-- Raised by ENC_OFF_H for h outside [-128,127] under `OFF_H_WIDE = refuse`: R194 and R223(c) (safe). -/
  | altitudeOffsetOutsideInt8
  deriving DecidableEq, Repr

/-- The machine before its first request. The block has no reset state (R260): its parameters have the spec's defaults
(R6), nothing was driven yet (log 4), the input ports are at zero (log 3), the host is idle with no call (R236) and has addressed no
register (log 26). -/
def State.reset : State :=
  { cfg := {}, req := Request.ofOp 0, out := Outputs.undriven, phase := .idle, calls := [], results := [],
    trace := [], cursor := none, busReplies := [], devBytes := [], freeCount := 0 }

end Sys2Proof.Machine
end

