-- ==== Sys2Proof/Machine/Flags.lean ====
section
/-! DEFINITION. The block has no flags that persist (R22). Its only status is the `ERR` output of the request that is
being evaluated: the codes of R26 and R220. -/

namespace Sys2Proof.Machine

/-- `ERR = 0b00`: no error (R26). -/
def errNone : BitVec 2 := 0b00

/-- `E_RANGE`: the document's validation failure (R220). -/
def errRange : BitVec 2 := 0b01

/-- `E_ILLEGAL_OP`: `OP` is a reserved code (R220, R222). -/
def errIllegalOp : BitVec 2 := 0b10

/-- `ERR` as the request evaluated last drove it says success (R220). -/
def Outputs.succeeded (o : Outputs) : Bool := o.err == some errNone

end Sys2Proof.Machine
end

