-- ==== Sys2Proof/Machine/Operands.lean ====
section
/-! DEFINITION. Operand forms and the arithmetic of R9 and R10: `bits_N`, the nibble a decoder takes from its last byte,
rounding of an exact quotient, and the ranges the encoders validate. -/

namespace Sys2Proof.Machine

/-- `bits_N(i)`: the N-bit two's-complement encoding, `i mod 2^N` (R9). -/
def bits (n : Nat) (i : Int) : BitVec n := BitVec.ofInt n i

/-- `b[7:4]`, the fraction nibble of a decoder's last byte; `b[3:0]` is never read (R111). -/
def highNibble (b : Byte) : BitVec 4 := b.extractLsb' 4 4

/-- `flag ? value : 0x00`, a Boolean operand as a field byte (R73, R132 to R136). -/
def flagByte (flag : Bool) (value : Byte) : Byte := if flag then value else 0x00

/-- The roundings of R10. -/
inductive Rounding where
  | trunc     -- toward zero
  | floor     -- toward minus infinity
  | nearest   -- to the nearest integer, ties away from zero
  deriving DecidableEq, Repr

/-- The rational `n / d` (`d` > 0), rounded to an integer (R10). -/
def roundQuotient (mode : Rounding) (n : Int) (d : Nat) : Int :=
  match mode with
  | .trunc => n.tdiv d
  | .floor => n.fdiv d
  | .nearest => n.sign * ((2 * n.natAbs + d) / (2 * d) : Nat)

/-- `PRES_OFF_ROUND` as a rounding (R195). -/
def presRounding : PresOffRound → Rounding
  | .trunc => .trunc
  | .floor => .floor

/-- `TEMP_OFF_ROUND` as a rounding (R197). -/
def tempRounding : TempOffRound → Rounding
  | .trunc => .trunc
  | .floor => .floor
  | .nearest => .nearest

/-- os ∈ [0, 7] (R131, R136, R221(a)). -/
def osInRange (os : Int) : Bool := decide (0 ≤ os ∧ os ≤ 7)

/-- p ∈ [-512, 508] (R195, R221(b)). -/
def presOffInRange (p : Int) : Bool := decide (-512 ≤ p ∧ p ≤ 508)

/-- t ∈ [-8, 127/16] (R197, R221(c)), compared exactly on numerator and denominator. -/
def tempOffInRange (t : Rat) : Bool := decide (-8 * (t.den : Int) ≤ t.num ∧ 16 * t.num ≤ 127 * (t.den : Int))

/-- h ∈ [-128, 127] (R194, R223(c)). -/
def altOffInRange (h : Int) : Bool := decide (-128 ≤ h ∧ h ≤ 127)

end Sys2Proof.Machine
end

