-- ==== Sys2Proof/Machine/Ops.lean ====
section
/-! DEFINITION. The shared operations. An operation of the block ends in one of three ways: it drives a result, it raises an
error on `ERR` (the whole of "taking an exception" here: R225, there is no trap), or its operand value is refused (R11).
Then the named updates of the host's state and its bus primitives (R236). -/

namespace Sys2Proof.Machine

/-- What an operation of the block ends in. -/
abbrev Result := Host.Outcome State Fault Refusal

/-- The output ports change. -/
def State.setOut (s : State) (o : Outputs) : State := { s with out := o }

/-- An operation drives the ports `o` names; every other port is not a result (R27). -/
def drive (o : Outputs) (s : State) : Result := .next (s.setOut o)

/-- The outputs of an operation that ends in an error: `ERR` alone (R27, R130(c), R190). -/
def Outputs.ofError (code : BitVec 2) : Outputs := { Outputs.undriven with err := some code }

/-- Error entry (R225): the code on `ERR`, no data result, nothing saved, no mode changed, control goes nowhere. There is no
return operation (R226). -/
def raiseError (code : BitVec 2) (s : State) : Result := drive (Outputs.ofError code) s

/-- The outputs of a fixed-point decoder (R100(c)). -/
def Outputs.ofDecoder (io : BitVec 32) (fo : BitVec 4) (raw : Raw) : Outputs :=
  { Outputs.undriven with err := some errNone, io := some io, fo := some fo, raw := some raw }

/-- The outputs of an operation that drives `IO` alone (R164, R193). -/
def Outputs.ofInteger (io : BitVec 32) : Outputs :=
  { Outputs.undriven with err := some errNone, io := some io }

/-- The outputs of a one-byte encoder: the byte, `NB = 1`, the target register, `AV = 1` (R130(a), R190). -/
def Outputs.ofByte (target y : Byte) : Outputs :=
  { Outputs.undriven with err := some errNone, y0 := some y, nb := some 1, ao := some target, av := some true }

/-- The outputs of a two-byte encoder: the high byte first (R55, R190, R191). -/
def Outputs.ofTwoBytes (target : Byte) (v : BitVec 16) : Outputs :=
  { Outputs.undriven with
    err := some errNone, y0 := some (v.extractLsb' 8 8), y1 := some (v.extractLsb' 0 8), nb := some 2,
    ao := some target, av := some true }

/-! The host's updates. -/

/-- The host presents an operation on the input ports and goes to a phase (R70, R78). -/
def State.present (s : State) (ph : Phase) (i : Instr) : State := { s with phase := ph, req := encode s.cfg.wInt i }

/-- The host presents a request as the caller wrote it. -/
def State.presentRequest (s : State) (r : Request) : State := { s with phase := .requesting, req := r }

def State.setCalls (s : State) (cs : List Call) : State := { s with calls := cs }

def State.endCall (s : State) (ph : Phase) (r : CallResult) : State := { s with phase := ph, results := s.results ++ [r] }

def State.logEvent (s : State) (e : BusEvent) : State := { s with trace := s.trace ++ [e] }

def State.setCursor (s : State) (a : Option Byte) : State := { s with cursor := a }

/-! The bus primitives (R12, R236). Each call takes the next listed answer, or a free value where none is listed. -/

/-- How the bus answers this call: `none` is success. -/
def busAnswer (s : State) : Option Nat × State :=
  match s.busReplies with
  | a :: rest => (a, { s with busReplies := rest })
  | [] => (Config.freeBusReply s.freeCount, { s with freeCount := s.freeCount + 1 })

/-- The next byte the device returns. -/
def deviceByte (s : State) : Byte × State :=
  match s.devBytes with
  | b :: rest => (b, { s with devBytes := rest })
  | [] => (Config.freeDeviceByte s.freeCount, { s with freeCount := s.freeCount + 1 })

/-- The next `n` bytes the device returns, first byte first. -/
def deviceBytes : Nat → State → List Byte × State
  | 0, s => ([], s)
  | n + 1, s =>
    let (b, s) := deviceByte s
    let (bs, s) := deviceBytes n s
    (b :: bs, s)

/-- The register the bus has addressed after a call that addressed `a`: after a failure it is not known (log 26). -/
def addressedAfter (e : Option Nat) (a : Option Byte) : Option Byte :=
  match e with
  | none => a
  | some _ => none

/-- `BusWrite(bytes)`: the first byte is the register address (R12, R51), and that register is addressed. DESIGN CHOICE (log 26): so
it is after the write of a soft reset too, of which N12 says that no source tells what survives it (R263). -/
def busWrite (bytes : List Byte) (s : State) : Option Nat × State :=
  let (e, s) := busAnswer s
  (e, (s.setCursor (addressedAfter e bytes.head?)).logEvent (.write bytes e))

/-- `readByte(registerAddress)` (R236): the register is addressed and its byte read. -/
def busReadByte (addr : Byte) (s : State) : Except Nat Byte × State :=
  match busAnswer s with
  | (some e, s) => (.error e, (s.setCursor none).logEvent (.readByteFailed addr e))
  | (none, s) =>
    let (b, s) := deviceByte s
    (.ok b, (s.setCursor (some addr)).logEvent (.readByte addr b))

/-- `readBytes(count)`, BusRead(n): `count` bytes starting at the register addressed before (R12, R51, R236). -/
def busReadBytes (count : Nat) (s : State) : Except Nat (List Byte) × State :=
  match busAnswer s with
  | (some e, s) => (.error e, (s.setCursor none).logEvent (.readBytesFailed s.cursor count e))
  | (none, s) =>
    let (bs, s) := deviceBytes count s
    (.ok bs, s.logEvent (.readBytes s.cursor bs))

/-- The measurement block in six bytes read from STATUS on: STATUS, PRESSURE's three, TEMPERATURE's two (R55, R242). -/
def measBlockOf : List Byte → Option MeasBlock
  | [r0, r1, r2, r3, r4, r5] => some { status := r0, pMsb := r1, pCsb := r2, pLsb := r3, tMsb := r4, tLsb := r5 }
  | _ => none

end Sys2Proof.Machine
end

