-- ==== Sys2Proof/Machine/RegMap.lean ====
section
/-! DEFINITION. The constant tables of the block (R24, R261): the register map (R52) and the targets the encoders name. -/

namespace Sys2Proof.Machine

/-- The names of the register map (R52). -/
inductive RegName where
  | status | pressure | temperature | drStatus | pressureDelta | tempDelta | whoAmI | fStatus | fData | fSetup
  | timeDly | sysmod | intSource | ptDataCfg | barIn | presTgt | tTgt | presWnd | tempWnd | presMin | tempMin
  | presMax | tempMax | ctrlReg1 | ctrlReg2 | ctrlReg3 | ctrlReg4 | ctrlReg5 | offPres | offTemp | offH
  deriving DecidableEq, Repr

/-- One entry of the register map: the address is one byte (R51), the width a number of bytes. -/
structure RegEntry where
  name  : RegName
  addr  : Byte
  width : Nat
  deriving DecidableEq, Repr

/-- The register map, "bit-exact, must be preserved" (R52). -/
def regMap : List RegEntry :=
  [ ⟨.status, 0x00, 1⟩, ⟨.pressure, 0x01, 3⟩, ⟨.temperature, 0x04, 2⟩, ⟨.drStatus, 0x06, 1⟩,
    ⟨.pressureDelta, 0x07, 3⟩, ⟨.tempDelta, 0x0A, 2⟩, ⟨.whoAmI, 0x0C, 1⟩, ⟨.fStatus, 0x0D, 1⟩ ] ++
  [ ⟨.fData, 0x0E, 1⟩, ⟨.fSetup, 0x0F, 1⟩, ⟨.timeDly, 0x10, 1⟩, ⟨.sysmod, 0x11, 1⟩,
    ⟨.intSource, 0x12, 1⟩, ⟨.ptDataCfg, 0x13, 1⟩, ⟨.barIn, 0x14, 2⟩, ⟨.presTgt, 0x16, 2⟩ ] ++
  [ ⟨.tTgt, 0x18, 1⟩, ⟨.presWnd, 0x19, 2⟩, ⟨.tempWnd, 0x1B, 1⟩, ⟨.presMin, 0x1C, 3⟩,
    ⟨.tempMin, 0x1E, 2⟩, ⟨.presMax, 0x21, 3⟩, ⟨.tempMax, 0x24, 2⟩, ⟨.ctrlReg1, 0x26, 1⟩ ] ++
  [ ⟨.ctrlReg2, 0x27, 1⟩, ⟨.ctrlReg3, 0x28, 1⟩, ⟨.ctrlReg4, 0x29, 1⟩, ⟨.ctrlReg5, 0x2A, 1⟩,
    ⟨.offPres, 0x2B, 1⟩, ⟨.offTemp, 0x2C, 1⟩, ⟨.offH, 0x2D, 1⟩ ]

/-- The register occupies the bytes `addr` to `addr + width - 1` (R51). The spans do not partition the addresses (R53). -/
def RegEntry.spans (e : RegEntry) (a : Byte) : Bool :=
  decide (e.addr.toNat ≤ a.toNat ∧ a.toNat < e.addr.toNat + e.width)

/-- The entry that starts at an address (R164). -/
def regEntryAt (a : Byte) : Option RegEntry := regMap.find? (fun e => e.addr == a)

/-- The width the map declares for the register that starts at `a`; 0 where none does (R164). -/
def regWidthAt (a : Byte) : Nat :=
  match regEntryAt a with
  | some e => e.width
  | none => 0

/-- The register's address, read from the map (R165). -/
def addrOf (n : RegName) : Byte :=
  match n with
  | .status => 0x00 | .pressure => 0x01 | .temperature => 0x04 | .drStatus => 0x06
  | .pressureDelta => 0x07 | .tempDelta => 0x0A | .whoAmI => 0x0C | .fStatus => 0x0D
  | .fData => 0x0E | .fSetup => 0x0F | .timeDly => 0x10 | .sysmod => 0x11
  | .intSource => 0x12 | .ptDataCfg => 0x13 | .barIn => 0x14 | .presTgt => 0x16
  | .tTgt => 0x18 | .presWnd => 0x19 | .tempWnd => 0x1B | .presMin => 0x1C
  | .tempMin => 0x1E | .presMax => 0x21 | .tempMax => 0x24 | .ctrlReg1 => 0x26
  | .ctrlReg2 => 0x27 | .ctrlReg3 => 0x28 | .ctrlReg4 => 0x29 | .ctrlReg5 => 0x2A
  | .offPres => 0x2B | .offTemp => 0x2C | .offH => 0x2D

/-- The register ENC_OFF_T names as its target, per `TEMP_OFFSET_TARGET` (R198). -/
def tempOffsetTarget : TempOffsetTarget → Byte
  | .offTemp => addrOf .offTemp
  | .offPres => addrOf .offPres

end Sys2Proof.Machine
end

