-- ==== Sys2Proof/Machine/Codec.lean ====
section
/-! DEFINITION. The fixed-point decoders (R100 to R112): they never raise and never read the low nibble of their last byte. -/

namespace Sys2Proof.Machine

/-- DEC_Q16_4 (R101): the integer is `B0:B1` sign-extended, the fraction `B2[7:4]`, the raw word `B0:B1:B2[7:4]`. -/
def execDecQ16_4 (b0 b1 b2 : Byte) (s : State) : Result :=
  drive (Outputs.ofDecoder ((b0 ++ b1).signExtend 32) (highNibble b2) (b0 ++ b1 ++ highNibble b2)) s

/-- DEC_Q18_2 (R104): with the raw word `B0:B1:B2[7:4]`, the integer is `raw[19:2]` zero-extended and the fraction
`raw[1:0]` = `B2[5:4]` zero-extended. -/
def execDecQ18_2 (b0 b1 b2 : Byte) (s : State) : Result :=
  let raw : Raw := b0 ++ b1 ++ highNibble b2
  drive (Outputs.ofDecoder ((raw.extractLsb' 2 18).setWidth 32) ((b2.extractLsb' 4 2).setWidth 4) raw) s

/-- DEC_Q8_4 (R107): the integer is `B0` sign-extended, the fraction `B1[7:4]`, the raw word `B0:B1[7:4]` zero-extended. -/
def execDecQ8_4 (b0 b1 : Byte) (s : State) : Result :=
  drive (Outputs.ofDecoder (b0.signExtend 32) (highNibble b1) ((b0 ++ highNibble b1).setWidth 20)) s

/-- The exact value of a signed decoder's result: `V = i + f/16` (R102, R108, R110). -/
def signedValue (io : BitVec 32) (fo : BitVec 4) : Rat := mkRat (16 * io.toInt + fo.toNat) 16

/-- The exact value of DEC_Q18_2's result: `V = i + f/4` (R105, R110). -/
def unsignedValue (io : BitVec 32) (fo : BitVec 4) : Rat := mkRat (4 * io.toNat + fo.toNat) 4

end Sys2Proof.Machine
end

