-- ==== Sys2Proof/Machine/CtrlEncoders.lean ====
section
/-! DEFINITION. The control-register encoders (R130 to R137). The target is CTRL_REG1 (0x26), or PT_DATA_CFG (0x13) for
ENC_EVENT (R130(b)); the bits no encoder assigns are 0 (R130(e)). -/

namespace Sys2Proof.Machine

/-- The OS field byte: `bits_8(os * 2^3)`, bits 5:3 (R28, R131). -/
def osField (os : Int) : Byte := bits 8 (os * 2 ^ 3)

/-- The ALT field byte, bit 7 (R28, R132). -/
def altField (alt : Bool) : Byte := flagByte alt 0x80

/-- The RST field byte, bit 2 (R28, R133). -/
def rstField (rst : Bool) : Byte := flagByte rst 0x04

/-- The SBYB field byte, bit 0 (R28, R134). -/
def sbybField (active : Bool) : Byte := flagByte active 0x01

/-- A CTRL_REG1 encoder succeeds (R130(a), (b)). -/
def driveCtrl1 (y : Byte) (s : State) : Result := drive (Outputs.ofByte (addrOf .ctrlReg1) y) s

/-- ENC_OS (R131). -/
def execEncOs (os : Int) (s : State) : Result :=
  if osInRange os then driveCtrl1 (osField os) s else raiseError errRange s

/-- ENC_ALT (R132). -/
def execEncAlt (alt : Bool) (s : State) : Result := driveCtrl1 (altField alt) s

/-- ENC_RST (R133). -/
def execEncRst (rst : Bool) (s : State) : Result := driveCtrl1 (rstField rst) s

/-- ENC_SBYB (R134). -/
def execEncSbyb (active : Bool) (s : State) : Result := driveCtrl1 (sbybField active) s

/-- ENC_EVENT (R135): TDEFE bit 0, PDEFE bit 1, and DREM bit 2 whenever either is requested (R30). -/
def execEncEvent (temp pres : Bool) (s : State) : Result :=
  drive (Outputs.ofByte (addrOf .ptDataCfg) (flagByte temp 0x01 ||| flagByte pres 0x02 ||| flagByte (temp || pres) 0x04)) s

/-- ENC_CTRL1 (R136): the OR of the four field bytes, after the same check as ENC_OS. -/
def execEncCtrl1 (os : Int) (alt rst active : Bool) (s : State) : Result :=
  if osInRange os then driveCtrl1 (altField alt ||| osField os ||| rstField rst ||| sbybField active) s
  else raiseError errRange s

end Sys2Proof.Machine
end

