-- ==== Sys2Proof/Machine/RegDecoders.lean ====
section
/-! DEFINITION. The register decoders and the map lookup (R159 to R165): they read `B0` only and never raise. -/

namespace Sys2Proof.Machine

/-- DEC_CTRL1 (R160): `B0[5:3]`, `B0[7]`, `B0[2]`, `B0[0]`; bits 6 and 1 are not read. -/
def execDecCtrl1 (b : Byte) (s : State) : Result :=
  drive { Outputs.undriven with
    err := some errNone, oOs := some (b.extractLsb' 3 3), oAlt := some (b.getLsbD 7), oRst := some (b.getLsbD 2),
    oSbyb := some (b.getLsbD 0) } s

/-- DEC_STATUS (R162): PTDR is bit 3, PDR bit 2, TDR bit 1; bits 7:4 and 0 are not read (log 14). -/
def execDecStatus (b : Byte) (s : State) : Result :=
  drive { Outputs.undriven with
    err := some errNone, oPtdr := some (b.getLsbD 3), oPdr := some (b.getLsbD 2), oTdr := some (b.getLsbD 1) } s

/-- REG_WIDTH (R164): the declared width of the register that starts at the address, 0 where none does. -/
def execRegWidth (addr : Byte) (s : State) : Result := drive (Outputs.ofInteger (BitVec.ofNat 32 (regWidthAt addr))) s

end Sys2Proof.Machine
end

