-- ==== Sys2Proof/Machine/ValueEncoders.lean ====
section
/-! DEFINITION. The reference and offset value encoders (R190 to R198). -/

namespace Sys2Proof.Machine

/-- ENC_BAR_IN (R191): `h = p div 2`, two bytes, high byte first. A negative pressure is refused, and so is h > 0xFFFF unless
`BAR_IN_OVERFLOW = wrap` keeps its low 16 bits (R223(a), (b)). -/
def execEncBarIn (pa : Int) (s : State) : Result :=
  if pa < 0 then .refused .negativePressure
  else if pa / 2 ≤ 0xFFFF then drive (Outputs.ofTwoBytes (addrOf .barIn) (bits 16 (pa / 2))) s
  else match s.cfg.barInOverflow with
    | .refuse => .refused .barInOverflow
    | .wrap => drive (Outputs.ofTwoBytes (addrOf .barIn) (bits 16 (pa / 2 % 2 ^ 16))) s

/-- The default sea-level pressure in pascals, the document's literal (R193). -/
def defaultSeaLevel : Nat := 101326

/-- DEF_SLP (R193). -/
def execDefSlp (s : State) : Result := drive (Outputs.ofInteger (BitVec.ofNat 32 defaultSeaLevel)) s

/-- ENC_OFF_H (R194): 1 m per count; a value outside int8 is refused, never wrapped (`OFF_H_WIDE = refuse`, R223(c)). -/
def execEncOffH (metres : Int) (s : State) : Result :=
  if altOffInRange metres then drive (Outputs.ofByte (addrOf .offH) (bits 8 metres)) s
  else match s.cfg.offHWide with
    | .refuse => .refused .altitudeOffsetOutsideInt8

/-- ENC_OFF_P (R195): 4 Pa per count, rounded per `PRES_OFF_ROUND`. -/
def execEncOffP (pa : Int) (s : State) : Result :=
  if presOffInRange pa then
    drive (Outputs.ofByte (addrOf .offPres) (bits 8 (roundQuotient (presRounding s.cfg.presOffRound) pa 4))) s
  else raiseError errRange s

/-- ENC_OFF_T (R197): 1/16 °C per count, `16 * t` rounded per `TEMP_OFF_ROUND`; the target is `TEMP_OFFSET_TARGET` (R198). -/
def execEncOffT (celsius : Rat) (s : State) : Result :=
  if tempOffInRange celsius then
    drive (Outputs.ofByte (tempOffsetTarget s.cfg.tempOffsetTarget)
      (bits 8 (roundQuotient (tempRounding s.cfg.tempOffRound) (16 * celsius.num) celsius.den))) s
  else raiseError errRange s

end Sys2Proof.Machine
end

