-- ==== Sys2Proof/Machine/Dispatch.lean ====
section
/-! DEFINITION. One arm per operation of R71. -/

namespace Sys2Proof.Machine

def exec (i : Instr) (s : State) : Host.Outcome State Fault Refusal :=
  match i with
  | .decQ16_4 b0 b1 b2 => Sys2Proof.Machine.execDecQ16_4 b0 b1 b2 s
  | .decQ18_2 b0 b1 b2 => Sys2Proof.Machine.execDecQ18_2 b0 b1 b2 s
  | .decQ8_4 b0 b1 => Sys2Proof.Machine.execDecQ8_4 b0 b1 s
  | .encOs os => Sys2Proof.Machine.execEncOs os s
  | .encAlt alt => Sys2Proof.Machine.execEncAlt alt s
  | .encRst rst => Sys2Proof.Machine.execEncRst rst s
  | .encSbyb active => Sys2Proof.Machine.execEncSbyb active s
  | .encEvent temp pres => Sys2Proof.Machine.execEncEvent temp pres s
  | .encCtrl1 os alt rst active => Sys2Proof.Machine.execEncCtrl1 os alt rst active s
  | .decCtrl1 b => Sys2Proof.Machine.execDecCtrl1 b s
  | .decStatus b => Sys2Proof.Machine.execDecStatus b s
  | .regWidth addr => Sys2Proof.Machine.execRegWidth addr s
  | .encBarIn pa => Sys2Proof.Machine.execEncBarIn pa s
  | .defSlp => Sys2Proof.Machine.execDefSlp s
  | .encOffH metres => Sys2Proof.Machine.execEncOffH metres s
  | .encOffP pa => Sys2Proof.Machine.execEncOffP pa s
  | .encOffT celsius => Sys2Proof.Machine.execEncOffT celsius s

end Sys2Proof.Machine
end

