-- ==== Sys2Proof/Machine/Evaluate.lean ====
section
/-! DEFINITION. The evaluation of the request on the input ports: the block as a whole (R2, R70, R224). -/

namespace Sys2Proof.Machine

/-- `E_ILLEGAL_OP` is decided first, from `OP` alone, and no operand is read (R74, R222, R224); a legal request is the
operation it selects (R75). -/
def evaluate (s : State) : Result :=
  match decode s.cfg.wInt s.req with
  | .ok i => exec i s
  | .error (.reservedOp _) => raiseError errIllegalOp s

end Sys2Proof.Machine
end

