-- ==== Sys2Proof/Machine/Driver.lean ====
section
/-! DEFINITION. The host's side of the contract (R236 to R246): what the host does with the outputs of the request just
evaluated, until it has the next request on the ports. The bus is touched here and nowhere else (R227). -/

namespace Sys2Proof.Machine

/-- The states the document names (R236). -/
inductive Stage where
  | idle | configuring | polling | reading | done | failed
  | other   -- one of the short operations of R245, or a request of the caller's own
  deriving DecidableEq, Repr

/-- Which of the document's states a phase belongs to (60_exceptions.md section 3; log 25). -/
def Phase.stage : Phase → Stage
  | .idle => .idle
  | .configMode _ _ => .configuring
  | .configEvent _ _ => .configuring
  | .configActive _ _ => .configuring
  | .polling _ _ => .polling
  | .convertMain _ _ => .reading
  | .convertTemp _ _ _ => .reading
  | .resetting => .other
  | .settingSeaLevel _ => .other
  | .gettingSeaLevel => .other
  | .compensatingAltitude _ => .other
  | .compensatingPressure _ => .other
  | .compensatingTemperature _ => .other
  | .requesting => .other
  | .done => .done
  | .failed => .failed

/-- `alt = (mode = Altimeter)` (R237). -/
def PressureMode.isAltimeter : PressureMode → Bool
  | .barometer => false
  | .altimeter => true

/-- The decoder the pressure bytes are routed to (R243). -/
def PressureMode.decoder (mode : PressureMode) (b : MeasBlock) : Instr :=
  match mode with
  | .barometer => .decQ18_2 b.pMsb b.pCsb b.pLsb
  | .altimeter => .decQ16_4 b.pMsb b.pCsb b.pLsb

/-- The value of that decoder's result (R102, R105, R243). -/
def PressureMode.value (mode : PressureMode) (io : BitVec 32) (fo : BitVec 4) : Rat :=
  match mode with
  | .barometer => unsignedValue io fo
  | .altimeter => signedValue io fo

/-- What an encoder put on the ports: the target address and the data bytes in wire order, or why there is none. -/
def Outputs.encoded (o : Outputs) : Except CallError (List Byte) :=
  if o.err = some errRange then .error .range
  else if o.err = some errNone then
    match o.ao, o.y0, o.y1 with
    | some a, some y0, none => .ok [a, y0]
    | some a, some y0, some y1 => .ok [a, y0, y1]
    | _, _, _ => .error .noResult
  else .error .noResult

/-- The integer and fraction a decoder put on the ports. -/
def Outputs.decoded (o : Outputs) : Except CallError (BitVec 32 × BitVec 4) :=
  match o.err, o.io, o.fo with
  | some e, some io, some fo => if e = errNone then .ok (io, fo) else .error .noResult
  | _, _, _ => .error .noResult

/-- The host begins a call: its first request goes on the ports (R238, R245). -/
def startCall (c : Call) (s : State) : State :=
  match c with
  | .measure os mode => s.present (.configMode os mode) (.encCtrl1 (intOperand s.cfg.wInt os) mode.isAltimeter false false)
  | .reset => s.present .resetting (.encRst true)
  | .setSeaLevel pa => s.present (.settingSeaLevel pa) (.encBarIn (intOperand s.cfg.wInt pa))
  | .getDefaultSeaLevel => s.present .gettingSeaLevel .defSlp
  | .compensateAltitude metres => s.present (.compensatingAltitude metres) (.encOffH (intOperand s.cfg.wInt metres))
  | .compensatePressure pa => s.present (.compensatingPressure pa) (.encOffP (intOperand s.cfg.wInt pa))
  | .compensateTemperature celsius => s.present (.compensatingTemperature celsius) (.encOffT celsius)
  | .request r => s.presentRequest r

/-- The next call, if one waits; else the ports hold their values (log 6). -/
def startNext (s : State) : State :=
  match s.calls with
  | [] => s
  | c :: cs => startCall c (s.setCalls cs)

/-- The call is done; the next one may begin (R246: one at a time). -/
def complete (r : CallResult) (s : State) : State := startNext (s.endCall .done r)

/-- The call failed: the error goes to the caller, nothing else is kept (R244). -/
def failCall (e : CallError) (s : State) : State := startNext (s.endCall .failed (.failed e))

/-- The host writes what the encoder put on the ports, `BusWrite([AO, Y0])` or `BusWrite([AO, Y0, Y1])` (R238 to R240,
R245); on a validation failure it writes nothing. -/
def writeEncoded (s : State) : Except CallError Unit × State :=
  match s.out.encoded with
  | .error e => (.error e, s)
  | .ok bytes =>
    match busWrite bytes s with
    | (none, s) => (.ok (), s)
    | (some e, s) => (.error (.bus e), s)

/-- One turn of the poll: sleep, read STATUS, and put the byte to DEC_STATUS (R241). -/
def pollStatus (mode : PressureMode) (reads : Nat) (s : State) : State :=
  match busReadByte (addrOf .status) (s.logEvent (.sleep s.cfg.pollInterval)) with
  | (.error e, s) => failCall (.bus e) s
  | (.ok v, s) => s.present (.polling mode (reads + 1)) (.decStatus v)

/-- Whether `POLL_MAX` ends the poll after this many status reads (R241, log 11). -/
def pollExhausted (pollMax : Option Nat) (reads : Nat) : Bool :=
  match pollMax with
  | none => false
  | some m => decide (m ≤ reads)

/-- Reading (R242): set the cursor to STATUS, read the six bytes in one transfer, route the pressure bytes (R243). -/
def readMeasurement (mode : PressureMode) (s : State) : State :=
  match busWrite [addrOf .status] s with
  | (some e, s) => failCall (.bus e) s
  | (none, s) =>
    match busReadBytes 6 s with
    | (.error e, s) => failCall (.bus e) s
    | (.ok bytes, s) =>
      match measBlockOf bytes with
      | some b => s.present (.convertMain mode b) (mode.decoder b)
      | none => failCall .noResult s          -- never: six bytes were read

/-- A short operation that ends with its bus write (R245(b), (d)). DESIGN CHOICE (log 25): the host then stands in Done or Failed, of
which R245 says nothing. -/
def finishWrite (s : State) : State :=
  match writeEncoded s with
  | (.ok _, s) => complete .written s
  | (.error e, s) => failCall e s

/-- What the host does with the outputs of the request just evaluated, phase by phase. DESIGN CHOICE (log 25): the operations of R245
and a caller's own request end in Done or Failed, as a measurement does. -/
def react (s : State) : State :=
  match s.phase with
  | .idle => startNext s
  | .configMode os mode =>
    match writeEncoded s with
    | (.ok _, s) => s.present (.configEvent os mode) (.encEvent true true)
    | (.error e, s) => failCall e s
  | .configEvent os mode =>
    match writeEncoded s with
    | (.ok _, s) => s.present (.configActive os mode) (.encCtrl1 (intOperand s.cfg.wInt os) mode.isAltimeter false true)
    | (.error e, s) => failCall e s
  | .configActive _ mode =>
    match writeEncoded s with
    | (.ok _, s) => pollStatus mode 0 s
    | (.error e, s) => failCall e s
  | .polling mode reads =>
    match s.out.oPtdr with
    | some true => readMeasurement mode s
    | some false => if pollExhausted s.cfg.pollMax reads then failCall .timeout s else pollStatus mode reads s
    | none => failCall .noResult s
  | .convertMain mode b =>
    match s.out.decoded with
    | .ok (io, fo) => s.present (.convertTemp mode b (mode.value io fo)) (.decQ8_4 b.tMsb b.tLsb)
    | .error e => failCall e s
  | .convertTemp mode _ value =>
    match s.out.decoded with
    | .ok (io, fo) => complete (.measured mode value (signedValue io fo)) s
    | .error e => failCall e s
  | .resetting =>
    match writeEncoded s with
    | (.ok _, s) => complete .written s
    | (.error (.bus _), s) => complete .written s      -- the expected disconnection is suppressed (R245(a), R268)
    | (.error e, s) => failCall e s
  | .settingSeaLevel _ => finishWrite s
  | .gettingSeaLevel =>
    match s.out.io with
    | some io => complete (.seaLevel io.toNat) s       -- no bus access (R245(c))
    | none => failCall .noResult s
  | .compensatingAltitude _ => finishWrite s
  | .compensatingPressure _ => finishWrite s
  | .compensatingTemperature _ => finishWrite s
  | .requesting => complete (.outputs s.out) s
  | .done => startNext s
  | .failed => startNext s

end Sys2Proof.Machine
end

