-- ==== Sys2Proof/Machine/Step.lean ====
section
/-! DEFINITION. One step: the block evaluates the request on its ports as one indivisible step (R57), then the host takes the
outputs and puts its next request on the ports (R78). -/

namespace Sys2Proof.Machine

def step (s : State) : Host.Outcome State Fault Refusal :=
  match evaluate s with
  | .next t => .next (react t)
  | .fault f => .fault f
  | .refused r => .refused r

/-- The request a table word stands for, on the input ports, which is where the next step takes its request. -/
def State.withFetchWord (s : State) (nbits w : Nat) : State := { s with req := requestOfWord nbits w }

end Sys2Proof.Machine
end

