-- ==== Sys2Proof/Machine/Asm.lean ====
section
/-! DEFINITION. The assembler of R76: a statement is a mnemonic of R71 and its operands, separated by commas, in the order of
the "reads" column; a `;` starts a comment. It gives the instruction, and `encode` gives the ports (R76). There are no
pseudo-instructions (R77). What R76 leaves open is in log 20. -/

namespace Sys2Proof.Machine

/-- Why a line is no statement. -/
inductive AsmError where
  | empty              -- nothing, or a comment alone
  | unknownMnemonic
  | operandCount
  | badByte
  | badInteger
  | badBoolean
  | badCelsius
  deriving DecidableEq, Repr

def isBlank (c : Char) : Bool := c == ' ' || c == '\t'

def trimBlanks (cs : List Char) : List Char := ((cs.dropWhile isBlank).reverse.dropWhile isBlank).reverse

/-- The pieces between the separators. -/
def piecesAt (sep : Char) : List Char → List (List Char)
  | [] => [[]]
  | c :: cs =>
    match piecesAt sep cs with
    | [] => [[c]]
    | w :: ws => if c == sep then [] :: w :: ws else (c :: w) :: ws

/-- The value of a digit below the base. -/
def digitValue (base : Nat) (c : Char) : Option Nat :=
  let v :=
    if '0'.toNat ≤ c.toNat ∧ c.toNat ≤ '9'.toNat then some (c.toNat - '0'.toNat)
    else if 'a'.toNat ≤ c.toNat ∧ c.toNat ≤ 'f'.toNat then some (c.toNat - 'a'.toNat + 10)
    else if 'A'.toNat ≤ c.toNat ∧ c.toNat ≤ 'F'.toNat then some (c.toNat - 'A'.toNat + 10)
    else none
  match v with
  | some n => if n < base then some n else none
  | none => none

/-- The digits read after `acc`. -/
def digitsFrom (base acc : Nat) : List Char → Option Nat
  | [] => some acc
  | c :: cs =>
    match digitValue base c with
    | some n => digitsFrom base (base * acc + n) cs
    | none => none

/-- At least one digit. -/
def parseDigits (base : Nat) (cs : List Char) : Option Nat :=
  match cs with
  | [] => none
  | _ => digitsFrom base 0 cs

/-- An optional sign, and the rest: `true` is minus. -/
def takeSign : List Char → Bool × List Char
  | '-' :: cs => (true, cs)
  | '+' :: cs => (false, cs)
  | cs => (false, cs)

def withSign (negative : Bool) (n : Nat) : Int := if negative then -(n : Int) else n

/-- "a decimal literal (optionally signed) or a `0x` hex literal" (R76). -/
def parseInteger (cs : List Char) : Option Int :=
  match cs with
  | '0' :: 'x' :: hex => (parseDigits 16 hex).map (fun n => (n : Int))
  | _ => (parseDigits 10 (takeSign cs).2).map (withSign (takeSign cs).1)

/-- The literal an N-bit port can hold: `bits_N` is defined on [-2^(N-1), 2^N - 1] (R9). -/
def parsePort (n : Nat) (cs : List Char) : Option (BitVec n) :=
  match parseInteger cs with
  | some i => if -(2 ^ (n - 1)) ≤ i ∧ i < 2 ^ n then some (bits n i) else none
  | none => none

/-- "A Boolean is `0` or `1`" (R76). -/
def parseBoolean : List Char → Option Bool
  | ['0'] => some false
  | ['1'] => some true
  | _ => none

/-- A signed decimal literal, with a fraction or without, or a signed fraction `n/d`: that exact rational (R76). -/
def parseCelsius (cs : List Char) : Option Rat :=
  let (negative, body) := takeSign cs
  match piecesAt '/' body with
  | [n, d] =>
    match parseDigits 10 n, parseDigits 10 d with
    | some n, some d => if d = 0 then none else some (mkRat (withSign negative n) d)
    | _, _ => none
  | _ =>
    match piecesAt '.' body with
    | [w] => (parseDigits 10 w).map (fun n => mkRat (withSign negative n) 1)
    | [w, f] =>
      match parseDigits 10 w, parseDigits 10 f with
      | some w, some f' => some (mkRat (withSign negative (w * 10 ^ f.length + f')) (10 ^ f.length))
      | _, _ => none
    | _ => none

def need {α : Type} (e : AsmError) : Option α → Except AsmError α
  | some a => .ok a
  | none => .error e

def byteOperand (cs : List Char) : Except AsmError Byte := need .badByte (parsePort 8 cs)

/-- The integer that stands on `IA`, `w` = `W_INT` bits wide (R73). -/
def integerOperand (w : Nat) (cs : List Char) : Except AsmError Int :=
  (need .badInteger (parsePort w cs)).map BitVec.toInt

def booleanOperand (cs : List Char) : Except AsmError Bool := need .badBoolean (parseBoolean cs)

def celsiusOperand (cs : List Char) : Except AsmError Rat := need .badCelsius (parseCelsius cs)

/-- The instruction of an operation code with its operands (R76). -/
def assembleOp (w code : Nat) (operands : List (List Char)) : Except AsmError Instr :=
  match code, operands with
  | 0x00, [x, y, z] => return .decQ16_4 (← byteOperand x) (← byteOperand y) (← byteOperand z)
  | 0x01, [x, y, z] => return .decQ18_2 (← byteOperand x) (← byteOperand y) (← byteOperand z)
  | 0x02, [x, y] => return .decQ8_4 (← byteOperand x) (← byteOperand y)
  | 0x03, [x] => return .encOs (← integerOperand w x)
  | 0x04, [x] => return .encAlt (← booleanOperand x)
  | 0x05, [x] => return .encRst (← booleanOperand x)
  | 0x06, [x] => return .encSbyb (← booleanOperand x)
  | 0x07, [x, y] => return .encEvent (← booleanOperand x) (← booleanOperand y)
  | 0x08, [o, x, y, z] =>
    return .encCtrl1 (← integerOperand w o) (← booleanOperand x) (← booleanOperand y) (← booleanOperand z)
  | 0x09, [x] => return .decCtrl1 (← byteOperand x)
  | 0x0A, [x] => return .decStatus (← byteOperand x)
  | 0x0B, [x] => return .regWidth (← byteOperand x)
  | 0x0C, [x] => return .encBarIn (← integerOperand w x)
  | 0x0D, [] => return .defSlp
  | 0x0E, [x] => return .encOffH (← integerOperand w x)
  | 0x0F, [x] => return .encOffP (← integerOperand w x)
  | 0x10, [x] => return .encOffT (← celsiusOperand x)
  | _, _ => .error .operandCount

/-- The statement of a line: what stands before a comment (R76). -/
def statementText (line : String) : List Char := trimBlanks (line.toList.takeWhile (fun c => c != ';'))

/-- The first word of a line's statement. -/
def mnemonicText (line : String) : List Char := (statementText line).takeWhile (fun c => !isBlank c)

/-- The operands of a line's statement, the pieces between the commas: none where nothing follows the mnemonic. -/
def operandTexts (line : String) : List (List Char) :=
  match trimBlanks ((statementText line).drop (mnemonicText line).length) with
  | [] => []
  | body => (piecesAt ',' body).map trimBlanks

/-- One line (R76), for `w` = `W_INT`. -/
def assemble (w : Nat) (line : String) : Except AsmError Instr :=
  match statementText line with
  | [] => .error .empty
  | _ =>
    match opcodeTable.find? (fun row => row.mnemonic.toList == mnemonicText line) with
    | some row => assembleOp w row.pattern.toNat (operandTexts line)
    | none => .error .unknownMnemonic

end Sys2Proof.Machine
end

