-- ==== Sys2Proof/Safety.lean ====
section
/-! DEFINITION. The terms the claims use: which ports an operation reads and drives (R71), when the output ports are legal
(R26, R27, R220), when the request on the input ports is the one the host's phase asks for (R238 to R245), which bus actions
the contract has, and the invariant of the machine made of them. -/

namespace Sys2Proof.Machine

/-- Two states with everything alike but the output ports: what an operation of the block may change (R12, R20 to R23). -/
def SameButOutputs (s t : State) : Prop := t = { s with out := t.out }

/-- `k` steps, stopping at the first that does not go on. -/
def runSteps : Nat → State → Result
  | 0, s => .next s
  | k + 1, s =>
    match step s with
    | .next t => runSteps k t
    | .fault f => .fault f
    | .refused r => .refused r

/-! The results of the operation rules, written port by port from the spec. -/

/-- A one-byte encoder's result: `Y0`, `NB = 1`, `AO`, `AV = 1`, `ERR = 0b00`, and nothing else (R130(a), R190). -/
def byteResult (target y : Byte) : Outputs :=
  { Outputs.undriven with err := some 0b00, y0 := some y, nb := some 1, ao := some target, av := some true }

/-- A fixed-point decoder's result: `IO`, `FO`, `RAW`, `ERR = 0b00`, and nothing else (R100(c)). -/
def decoderResult (io : BitVec 32) (fo : BitVec 4) (raw : Raw) : Outputs :=
  { Outputs.undriven with err := some 0b00, io := some io, fo := some fo, raw := some raw }

/-- An error: `ERR` and nothing else (R27, R130(c), R190). -/
def errorResult (code : BitVec 2) : Outputs := { Outputs.undriven with err := some code }

/-- Two bytes, high byte first: `Y0`, `Y1`, `NB = 2`, `AO`, `AV = 1`, `ERR = 0b00`, and nothing else (R190, R191). -/
def twoByteResult (target hi lo : Byte) : Outputs :=
  { Outputs.undriven with
    err := some 0b00, y0 := some hi, y1 := some lo, nb := some 2, ao := some target, av := some true }

/-- `IO` and `ERR = 0b00`, and nothing else (R164, R193). -/
def integerResult (io : BitVec 32) : Outputs := { Outputs.undriven with err := some 0b00, io := some io }

/-- DEC_CTRL1's result (R160), and nothing else. -/
def ctrlResult (os : BitVec 3) (alt rst sbyb : Bool) : Outputs :=
  { Outputs.undriven with err := some 0b00, oOs := some os, oAlt := some alt, oRst := some rst, oSbyb := some sbyb }

/-- DEC_STATUS's result (R162), and nothing else. -/
def statusResult (ptdr pdr tdr : Bool) : Outputs :=
  { Outputs.undriven with err := some 0b00, oPtdr := some ptdr, oPdr := some pdr, oTdr := some tdr }

/-- R52's table in numbers, address and width, row by row. -/
def registerMapRows : List (Nat × Nat) :=
  [ (0x00, 1), (0x01, 3), (0x04, 2), (0x06, 1), (0x07, 3), (0x0A, 2), (0x0C, 1), (0x0D, 1), (0x0E, 1), (0x0F, 1), (0x10, 1) ] ++
  [ (0x11, 1), (0x12, 1), (0x13, 1), (0x14, 2), (0x16, 2), (0x18, 1), (0x19, 2), (0x1B, 1), (0x1C, 3), (0x1E, 2), (0x21, 3) ] ++
  [ (0x24, 2), (0x26, 1), (0x27, 1), (0x28, 1), (0x29, 1), (0x2A, 1), (0x2B, 1), (0x2C, 1), (0x2D, 1) ]

/-- A request of this code is this operation on the ports it names (R71, R73), an integer being read from `w` = `W_INT` wires: the
block evaluates it as exec does. -/
def Selects (code : BitVec 5) (f : Nat → Request → Instr) : Prop :=
  ∀ s : State, s.req.op = code → evaluate s = exec (f s.cfg.wInt s.req) s

/-- `q` is the rational `x` rounded (R10), said by inequalities. -/
def RoundsTo (mode : Rounding) (x : Rat) (q : Int) : Prop :=
  match mode with
  | .trunc => if 0 ≤ x then (q : Rat) ≤ x ∧ x < q + 1 else (q : Rat) - 1 < x ∧ x ≤ q
  | .floor => (q : Rat) ≤ x ∧ x < q + 1
  | .nearest => if 0 ≤ x then (q : Rat) - 1 / 2 ≤ x ∧ x < q + 1 / 2 else (q : Rat) - 1 / 2 < x ∧ x ≤ q + 1 / 2

/-! The columns "reads" and "drives" of R71. -/

/-- The two requests agree on the `w` = `W_INT` wires of `IA` (R25). -/
def AgreeOnIA (w : Nat) (r q : Request) : Prop := r.ia % 2 ^ w = q.ia % 2 ^ w

/-- The two requests agree on the ports an operation of this code reads (R71, R27). A reserved code reads none (R222). -/
def AgreeOnReads (w : Nat) (op : BitVec 5) (r q : Request) : Prop :=
  match op.toNat with
  | 0x00 => r.b0 = q.b0 ∧ r.b1 = q.b1 ∧ r.b2 = q.b2
  | 0x01 => r.b0 = q.b0 ∧ r.b1 = q.b1 ∧ r.b2 = q.b2
  | 0x02 => r.b0 = q.b0 ∧ r.b1 = q.b1
  | 0x03 => AgreeOnIA w r q
  | 0x04 => r.fa = q.fa
  | 0x05 => r.fa = q.fa
  | 0x06 => r.fa = q.fa
  | 0x07 => r.fa = q.fa ∧ r.fb = q.fb
  | 0x08 => AgreeOnIA w r q ∧ r.fa = q.fa ∧ r.fb = q.fb ∧ r.fc = q.fc
  | 0x09 => r.b0 = q.b0
  | 0x0A => r.b0 = q.b0
  | 0x0B => r.b0 = q.b0
  | 0x0C => AgreeOnIA w r q
  | 0x0D => True
  | 0x0E => AgreeOnIA w r q
  | 0x0F => AgreeOnIA w r q
  | 0x10 => r.qa = q.qa
  | _ => True

/-- The groups of output ports the "drives" column uses. -/
inductive DriveGroup where
  | decoder      -- IO, FO, RAW
  | oneByte      -- Y0, NB, AO, AV
  | twoBytes     -- Y0, Y1, NB, AO, AV
  | ctrlFields   -- O_OS, O_ALT, O_RST, O_SBYB
  | statusFields -- O_PTDR, O_PDR, O_TDR
  | integer      -- IO
  deriving DecidableEq, Repr

/-- The "drives" column of R71, by operation. -/
def driveGroupOf : Instr → DriveGroup
  | .decQ16_4 _ _ _ => .decoder
  | .decQ18_2 _ _ _ => .decoder
  | .decQ8_4 _ _ => .decoder
  | .encOs _ => .oneByte
  | .encAlt _ => .oneByte
  | .encRst _ => .oneByte
  | .encSbyb _ => .oneByte
  | .encEvent _ _ => .oneByte
  | .encCtrl1 _ _ _ _ => .oneByte
  | .decCtrl1 _ => .ctrlFields
  | .decStatus _ => .statusFields
  | .regWidth _ => .integer
  | .encBarIn _ => .twoBytes
  | .defSlp => .integer
  | .encOffH _ => .oneByte
  | .encOffP _ => .oneByte
  | .encOffT _ => .oneByte

/-- Of the data ports, exactly those of the group are driven. -/
def Outputs.DrivesExactly (o : Outputs) (g : DriveGroup) : Prop :=
  (o.io.isSome ↔ g = .decoder ∨ g = .integer) ∧ (o.fo.isSome ↔ g = .decoder) ∧ (o.raw.isSome ↔ g = .decoder) ∧
  (o.y0.isSome ↔ g = .oneByte ∨ g = .twoBytes) ∧ (o.y1.isSome ↔ g = .twoBytes) ∧
  (o.nb.isSome ↔ g = .oneByte ∨ g = .twoBytes) ∧ (o.ao.isSome ↔ g = .oneByte ∨ g = .twoBytes) ∧
  (o.av.isSome ↔ g = .oneByte ∨ g = .twoBytes) ∧
  (o.oOs.isSome ↔ g = .ctrlFields) ∧ (o.oAlt.isSome ↔ g = .ctrlFields) ∧ (o.oRst.isSome ↔ g = .ctrlFields) ∧
  (o.oSbyb.isSome ↔ g = .ctrlFields) ∧
  (o.oPtdr.isSome ↔ g = .statusFields) ∧ (o.oPdr.isSome ↔ g = .statusFields) ∧ (o.oTdr.isSome ↔ g = .statusFields)

/-- The output ports are as R26, R27 and R220 allow: `ERR` is never 0b11; with an error, or before any request, no data port
is driven; `NB` counts the bytes driven; an address is driven with the bytes and `AV = 1` with it. -/
structure Outputs.Legal (o : Outputs) : Prop where
  errCode : o.err ≠ some 0b11
  errorAlone : o.err ≠ some 0b00 → o = { Outputs.undriven with err := o.err }
  byteCount : (o.nb = none ∧ o.y0 = none ∧ o.y1 = none) ∨ (o.nb = some 1 ∧ o.y0.isSome ∧ o.y1 = none) ∨
    (o.nb = some 2 ∧ o.y0.isSome ∧ o.y1.isSome)
  addressValid : (o.ao = none ∧ o.av = none ∧ o.nb = none) ∨ (o.ao.isSome ∧ o.av = some true ∧ o.nb.isSome)

/-- The bus writes of the contract (R238 to R240, R242, R245): the cursor at STATUS, or a target register followed by as many
bytes as the map declares for it (R39), with the bits no encoder assigns at 0 (R130(e)). -/
inductive WriteLegal : List Byte → Prop where
  | cursor : WriteLegal [0x00]
  | ctrlReg1 (y : Byte) (h : y &&& 0x42 = 0) : WriteLegal [0x26, y]
  | ptDataCfg (y : Byte) (h : y &&& 0xF8 = 0) : WriteLegal [0x13, y]
  | barIn (hi lo : Byte) : WriteLegal [0x14, hi, lo]
  | offset (a y : Byte) (h : a = 0x2B ∨ a = 0x2C ∨ a = 0x2D) : WriteLegal [a, y]

/-- The bus actions of the contract: reads are of STATUS, or of the six bytes that begin at it (R241, R242). -/
def BusEvent.Legal : BusEvent → Prop
  | .write bytes _ => WriteLegal bytes
  | .readByte addr _ => addr = 0x00
  | .readByteFailed addr _ => addr = 0x00
  | .readBytes start bytes => start = some 0x00 ∧ bytes.length = 6
  | .readBytesFailed start count _ => start = some 0x00 ∧ count = 6
  | .sleep _ => True

/-- The host's phase and the input ports agree: on the ports stands the request the contract has in that phase; the
oversample code was validated before the second write (R238); a bounded poll made no more reads than its bound, or one. -/
def State.Coherent (s : State) : Prop :=
  match s.phase with
  | .idle => True
  | .configMode os mode => s.req = encode s.cfg.wInt (.encCtrl1 (intOperand s.cfg.wInt os) mode.isAltimeter false false)
  | .configEvent os _ => s.req = encode s.cfg.wInt (.encEvent true true) ∧ osInRange (intOperand s.cfg.wInt os)
  | .configActive os mode =>
    s.req = encode s.cfg.wInt (.encCtrl1 (intOperand s.cfg.wInt os) mode.isAltimeter false true) ∧ osInRange (intOperand s.cfg.wInt os)
  | .polling _ reads =>
    s.req = encode s.cfg.wInt (.decStatus s.req.b0) ∧ 1 ≤ reads ∧ (∀ m, s.cfg.pollMax = some m → reads ≤ max m 1)
  | .convertMain mode b => s.req = encode s.cfg.wInt (mode.decoder b)
  | .convertTemp _ b _ => s.req = encode s.cfg.wInt (.decQ8_4 b.tMsb b.tLsb)
  | .resetting => s.req = encode s.cfg.wInt (.encRst true)
  | .settingSeaLevel pa => s.req = encode s.cfg.wInt (.encBarIn (intOperand s.cfg.wInt pa))
  | .gettingSeaLevel => s.req = encode s.cfg.wInt .defSlp
  | .compensatingAltitude metres => s.req = encode s.cfg.wInt (.encOffH (intOperand s.cfg.wInt metres))
  | .compensatingPressure pa => s.req = encode s.cfg.wInt (.encOffP (intOperand s.cfg.wInt pa))
  | .compensatingTemperature celsius => s.req = encode s.cfg.wInt (.encOffT celsius)
  | .requesting => True
  | .done => True
  | .failed => True

/-- The invariant of the machine: legal output ports, the ports the phase asks for, and a bus trace of the contract alone. -/
structure State.Inv (s : State) : Prop where
  outputs : s.out.Legal
  coherent : s.Coherent
  trace : ∀ e ∈ s.trace, e.Legal

/-! How calls begin and end (R237, R238, R244, R245, R246). -/

/-- The call has begun: the host is in its first phase, with its first request on the ports (R238, R245), or, for a request of the
caller's own, with that request there. -/
def Call.BegunAt (c : Call) (t : State) : Prop :=
  match c with
  | .measure os mode =>
    t.phase = .configMode os mode ∧
    t.req = encode t.cfg.wInt (.encCtrl1 (intOperand t.cfg.wInt os) (mode == .altimeter) false false)
  | .reset => t.phase = .resetting ∧ t.req = encode t.cfg.wInt (.encRst true)
  | .setSeaLevel pa => t.phase = .settingSeaLevel pa ∧ t.req = encode t.cfg.wInt (.encBarIn (intOperand t.cfg.wInt pa))
  | .getDefaultSeaLevel => t.phase = .gettingSeaLevel ∧ t.req = encode t.cfg.wInt .defSlp
  | .compensateAltitude metres =>
    t.phase = .compensatingAltitude metres ∧ t.req = encode t.cfg.wInt (.encOffH (intOperand t.cfg.wInt metres))
  | .compensatePressure pa =>
    t.phase = .compensatingPressure pa ∧ t.req = encode t.cfg.wInt (.encOffP (intOperand t.cfg.wInt pa))
  | .compensateTemperature celsius => t.phase = .compensatingTemperature celsius ∧ t.req = encode t.cfg.wInt (.encOffT celsius)
  | .request r => t.phase = .requesting ∧ t.req = r

/-- With no call under way after `s`: where one waits, the oldest has begun; where none does, the host stands in `stage`. -/
def BeginsNext (stage : Stage) (s t : State) : Prop :=
  (s.calls = [] ∧ t.calls = [] ∧ t.phase.stage = stage ∧ t.req = s.req) ∨
  ∃ c cs, s.calls = c :: cs ∧ t.calls = cs ∧ c.BegunAt t

/-- The call under way goes on: it gives no result and the waiting calls wait. -/
def GoesOn (s t : State) : Prop := t.results = s.results ∧ t.calls = s.calls

/-- The call under way is done: it gives one result, no error, and the next call begins. -/
def EndsDone (s t : State) : Prop :=
  (∃ r, t.results = s.results ++ [r] ∧ ∀ e, r ≠ .failed e) ∧ BeginsNext .done s t

/-- The call under way has failed: it gives one error and no value (R244), and the next call begins. -/
def EndsFailed (s t : State) : Prop := (∃ e, t.results = s.results ++ [.failed e]) ∧ BeginsNext .failed s t

/-! What the operand texts of a statement say (R76). -/

/-- The text is a literal of an integer that an `n`-bit port can hold (R9, R76), and the port holds its bits. -/
def ReadsPort (n : Nat) (text : List Char) (b : BitVec n) : Prop :=
  ∃ i : Int, parseInteger text = some i ∧ -(2 ^ (n - 1)) ≤ i ∧ i < 2 ^ n ∧ b = BitVec.ofInt n i

/-- The text is a literal of an integer that `IA`, `w` bits wide, can hold, and the operand is what the port denotes (R73). -/
def ReadsInteger (w : Nat) (text : List Char) (i : Int) : Prop := ∃ b : BitVec w, ReadsPort w text b ∧ i = b.toInt

/-- The texts are the instruction's operands, in the order of the "reads" column (R71, R76). -/
def OperandsRead (w : Nat) (i : Instr) (texts : List (List Char)) : Prop :=
  match i with
  | .decQ16_4 b0 b1 b2 => ∃ x y z, texts = [x, y, z] ∧ ReadsPort 8 x b0 ∧ ReadsPort 8 y b1 ∧ ReadsPort 8 z b2
  | .decQ18_2 b0 b1 b2 => ∃ x y z, texts = [x, y, z] ∧ ReadsPort 8 x b0 ∧ ReadsPort 8 y b1 ∧ ReadsPort 8 z b2
  | .decQ8_4 b0 b1 => ∃ x y, texts = [x, y] ∧ ReadsPort 8 x b0 ∧ ReadsPort 8 y b1
  | .encOs os => ∃ x, texts = [x] ∧ ReadsInteger w x os
  | .encAlt alt => texts = [[if alt then '1' else '0']]
  | .encRst rst => texts = [[if rst then '1' else '0']]
  | .encSbyb active => texts = [[if active then '1' else '0']]
  | .encEvent temp pres => texts = [[if temp then '1' else '0'], [if pres then '1' else '0']]
  | .encCtrl1 os alt rst active =>
    ∃ x, texts = [x, [if alt then '1' else '0'], [if rst then '1' else '0'], [if active then '1' else '0']] ∧ ReadsInteger w x os
  | .decCtrl1 b => ∃ x, texts = [x] ∧ ReadsPort 8 x b
  | .decStatus b => ∃ x, texts = [x] ∧ ReadsPort 8 x b
  | .regWidth addr => ∃ x, texts = [x] ∧ ReadsPort 8 x addr
  | .encBarIn pa => ∃ x, texts = [x] ∧ ReadsInteger w x pa
  | .defSlp => texts = []
  | .encOffH metres => ∃ x, texts = [x] ∧ ReadsInteger w x metres
  | .encOffP pa => ∃ x, texts = [x] ∧ ReadsInteger w x pa
  | .encOffT celsius => ∃ x, texts = [x] ∧ parseCelsius x = some celsius

/-- Blanks alone: spaces and tabs (log 20). -/
def Blanks (cs : List Char) : Prop := ∀ c ∈ cs, c = ' ' ∨ c = '\t'

/-- Operands as written in a statement: separated by commas, with `gap` after each comma (R76). -/
def writtenOperands (gap : List Char) : List (List Char) → List Char
  | [] => []
  | [x] => x
  | x :: y :: rest => x ++ ',' :: gap ++ writtenOperands gap (y :: rest)

/-- The line is written as R76 has it: the mnemonic, blanks, the operand texts separated by commas, and nothing more than blanks and
a comment that a `;` starts. No operand text holds a comma, a `;` or a blank. -/
def WrittenAs (line mnemonic : List Char) (texts : List (List Char)) : Prop :=
  (∀ x ∈ texts, ∀ c ∈ x, c ≠ ',' ∧ c ≠ ';' ∧ c ≠ ' ' ∧ c ≠ '\t') ∧
  ∃ indent gap sep trail comment, Blanks indent ∧ Blanks gap ∧ Blanks sep ∧ Blanks trail ∧ (texts = [] ∨ gap ≠ []) ∧
    (comment = [] ∨ ∃ text, comment = ';' :: text) ∧
    line = indent ++ mnemonic ++ gap ++ writtenOperands sep texts ++ trail ++ comment

/-- The text of digits, lower case where the base is 16 (R76). -/
def digitsText (ds : List Nat) : List Char := ds.map Nat.digitChar

/-- The number the digits denote in a base. -/
def digitsValue (base : Nat) (ds : List Nat) : Nat := ds.foldl (fun n d => base * n + d) 0

/-- A non-empty list of digits below the base. -/
def IsDigits (base : Nat) (ds : List Nat) : Prop := ds ≠ [] ∧ ∀ d ∈ ds, d < base

end Sys2Proof.Machine
end

