-- ==== Sys2Proof/Certificates/Slice0/Obligations.lean ====
section
/-! DEFINITION. The statements for the provers. Each docstring names the rules of spec/ it rests on. -/

open Sys2Proof Sys2Proof.Machine

/-! The machine as a whole. -/

/-- The invariant holds before the first request (log 3, log 4 name the values the spec does not give). -/
def Obligations.ResetMeetsInvariant : Prop := State.reset.Inv

/-- Every step keeps the invariant, from every state that meets it. Its clause on a bounded poll rests on log 11 (what `POLL_MAX`
counts), and the host in the step on log 5. -/
def Obligations.StepKeepsInvariant : Prop :=
  ∀ s t : State, s.Inv → step s = .next t → t.Inv

/-- Decoding an encoded instruction gives it back, for every `W_INT` and every instruction that fits the ports (R71, R73, R76). -/
def Obligations.DecodeOfEncode : Prop :=
  ∀ (w : Nat) (i : Instr), i.WellFormed w → decode w (encode w i) = .ok i

/-- Encoding a decoded request gives its `OP` and the ports its operation reads; the instruction is well formed. -/
def Obligations.EncodeOfDecodeKeepsReadPorts : Prop :=
  ∀ (w : Nat) (r : Request) (i : Instr), decode w r = .ok i →
    (encode w i).op = r.op ∧ AgreeOnReads w r.op (encode w i) r ∧ i.WellFormed w

/-- A step is exec of the instruction the ports decode to, then the host's reaction to its outputs; a request that decodes to
none drives `E_ILLEGAL_OP` and the host reacts to that (log 5). -/
def Obligations.StepRunsDecodedInstruction : Prop :=
  (∀ (s : State) (i : Instr), decode s.cfg.wInt s.req = .ok i →
    (∀ t, exec i s = .next t → step s = .next (react t)) ∧ (∀ r, exec i s = .refused r → step s = .refused r)) ∧
  (∀ (s : State) (e : DecodeError), decode s.cfg.wInt s.req = .error e →
    step s = .next (react { s with out := errorResult 0b10 }))

/-- A few words of R71's table, one or more of each family, decode to their operations. -/
def Obligations.TableWordsDecode : Prop :=
  decodeTableWord 8 0b00000 = some (.decQ16_4 0 0 0) ∧ decodeTableWord 8 0b00001 = some (.decQ18_2 0 0 0) ∧
  decodeTableWord 8 0b00010 = some (.decQ8_4 0 0) ∧ decodeTableWord 8 0b00111 = some (.encEvent false false) ∧
  decodeTableWord 8 0b01000 = some (.encCtrl1 0 false false false) ∧ decodeTableWord 8 0b01001 = some (.decCtrl1 0) ∧
  decodeTableWord 8 0b01011 = some (.regWidth 0) ∧ decodeTableWord 8 0b01101 = some .defSlp ∧
  decodeTableWord 8 0b10000 = some (.encOffT 0) ∧ decodeTableWord 8 0b10001 = none ∧ decodeTableWord 8 0b11111 = none

/-- R75: every value of `OP` selects exactly one row of the table or is reserved, and no operand value changes which. -/
def Obligations.OpAloneSelectsOneRow : Prop :=
  (∀ (w : Nat) (r : Request),
    (r.op.toNat ≤ 0x10 ∧ ∃ i row, decode w r = .ok i ∧ row ∈ opcodeTable ∧ row.mnemonic = i.mnemonic ∧ row.pattern = r.op ∧
      ∀ row' ∈ opcodeTable, row'.pattern = r.op → row' = row) ∨
    (0x11 ≤ r.op.toNat ∧ decode w r = .error (.reservedOp r.op) ∧ ∀ row ∈ opcodeTable, row.pattern ≠ r.op)) ∧
  (∀ (w : Nat) (r q : Request) (i j : Instr), r.op = q.op → decode w r = .ok i → decode w q = .ok j → i.mnemonic = j.mnemonic)

/-- R74, R222: a reserved `OP` drives `ERR = 0b10` and no other output, whatever the operands. -/
def Obligations.ReservedOpDrivesIllegalOp : Prop :=
  ∀ s : State, 0x11 ≤ s.req.op.toNat ∧ s.req.op.toNat ≤ 0x1F → evaluate s = .next { s with out := errorResult 0b10 }

/-! The fixed-point decoders. -/

/-- R101: DEC_Q16_4. -/
def Obligations.DecQ16Result : Prop :=
  Selects 0x00 (fun _ r => .decQ16_4 r.b0 r.b1 r.b2) ∧
  ∀ (s : State) (b0 b1 b2 : Byte), ∃ io fo raw,
    exec (.decQ16_4 b0 b1 b2) s = .next { s with out := decoderResult io fo raw } ∧
    io.toInt = (if b0.toNat < 128 then (256 * b0.toNat + b1.toNat : Int) else 256 * b0.toNat + b1.toNat - 65536) ∧
    fo.toNat = b2.toNat / 16 ∧
    raw.toNat = 4096 * b0.toNat + 16 * b1.toNat + b2.toNat / 16

/-- R104: DEC_Q18_2. -/
def Obligations.DecQ18Result : Prop :=
  Selects 0x01 (fun _ r => .decQ18_2 r.b0 r.b1 r.b2) ∧
  ∀ (s : State) (b0 b1 b2 : Byte), ∃ io fo raw,
    exec (.decQ18_2 b0 b1 b2) s = .next { s with out := decoderResult io fo raw } ∧
    io.toNat = b0.toNat * 2 ^ 10 + b1.toNat * 2 ^ 2 + b2.toNat / 64 ∧
    fo.toNat = b2.toNat / 16 % 4 ∧
    raw.toNat = 4096 * b0.toNat + 16 * b1.toNat + b2.toNat / 16

/-- R107: DEC_Q8_4. -/
def Obligations.DecQ8Result : Prop :=
  Selects 0x02 (fun _ r => .decQ8_4 r.b0 r.b1) ∧
  ∀ (s : State) (b0 b1 : Byte), ∃ io fo raw,
    exec (.decQ8_4 b0 b1) s = .next { s with out := decoderResult io fo raw } ∧
    io.toInt = (if b0.toNat < 128 then (b0.toNat : Int) else b0.toNat - 256) ∧
    fo.toNat = b1.toNat / 16 ∧
    raw.toNat = 16 * b0.toNat + b1.toNat / 16

/-- R102, R105, R108: the value of a decoder's result is the value of its raw fixed-point word, exactly. -/
def Obligations.DecoderValueIsRawWordValue : Prop :=
  (∀ (s : State) (b0 b1 b2 : Byte), ∃ io fo raw,
    exec (.decQ16_4 b0 b1 b2) s = .next { s with out := decoderResult io fo raw } ∧
    (io.toInt : Rat) + (fo.toNat : Rat) / 16 = (raw.toInt : Rat) / 16 ∧
    signedValue io fo = (raw.toInt : Rat) / 16) ∧
  (∀ (s : State) (b0 b1 b2 : Byte), ∃ io fo raw,
    exec (.decQ18_2 b0 b1 b2) s = .next { s with out := decoderResult io fo raw } ∧
    (io.toNat : Rat) + (fo.toNat : Rat) / 4 = (raw.toNat : Rat) / 4 ∧
    unsignedValue io fo = (raw.toNat : Rat) / 4) ∧
  (∀ (s : State) (b0 b1 : Byte), ∃ io fo raw,
    exec (.decQ8_4 b0 b1) s = .next { s with out := decoderResult io fo raw } ∧
    (io.toInt : Rat) + (fo.toNat : Rat) / 16 = ((raw.extractLsb' 0 12).toInt : Rat) / 16 ∧
    signedValue io fo = ((raw.extractLsb' 0 12).toInt : Rat) / 16 ∧ raw.toNat < 2 ^ 12)

/-- R103, R106, R109: the output ranges, and that each (integer, fraction) of DEC_Q16_4's range comes from exactly one
(B0, B1, B2[7:4]). -/
def Obligations.DecoderRanges : Prop :=
  (∀ (s t : State) (b0 b1 b2 : Byte), exec (.decQ16_4 b0 b1 b2) s = .next t → ∃ io fo, t.out.io = some io ∧ t.out.fo = some fo ∧
    -32768 ≤ io.toInt ∧ io.toInt ≤ 32767 ∧ fo.toNat ≤ 15) ∧
  (∀ (s t : State) (b0 b1 b2 : Byte), exec (.decQ18_2 b0 b1 b2) s = .next t → ∃ io fo, t.out.io = some io ∧ t.out.fo = some fo ∧
    io.toNat ≤ 262143 ∧ fo.toNat ≤ 3) ∧
  (∀ (s t : State) (b0 b1 : Byte), exec (.decQ8_4 b0 b1) s = .next t → ∃ io fo, t.out.io = some io ∧ t.out.fo = some fo ∧
    -128 ≤ io.toInt ∧ io.toInt ≤ 127 ∧ fo.toNat ≤ 15) ∧
  (∀ (s : State) (i : Int) (f : Nat), -32768 ≤ i ∧ i ≤ 32767 → f ≤ 15 → ∃ b0 b1 n : Nat, b0 < 256 ∧ b1 < 256 ∧ n < 16 ∧
    ∀ c0 c1 c2 : Byte,
      ((∃ io fo raw, exec (.decQ16_4 c0 c1 c2) s = .next { s with out := decoderResult io fo raw } ∧ io.toInt = i ∧ fo.toNat = f) ↔
        c0.toNat = b0 ∧ c1.toNat = b1 ∧ c2.toNat / 16 = n))

/-- R111: two inputs that differ only in the low four bits of the last byte give identical outputs. -/
def Obligations.LowNibbleNeverRead : Prop :=
  ∀ (s : State) (b0 b1 x y : Byte), x.toNat / 16 = y.toNat / 16 →
    (∃ t, exec (.decQ16_4 b0 b1 x) s = .next t ∧ exec (.decQ16_4 b0 b1 y) s = .next t) ∧
    (∃ t, exec (.decQ18_2 b0 b1 x) s = .next t ∧ exec (.decQ18_2 b0 b1 y) s = .next t) ∧
    (∃ t, exec (.decQ8_4 b0 x) s = .next t ∧ exec (.decQ8_4 b0 y) s = .next t)

/-- R112: the integer of a signed result is the floor of the value, and the fraction is added to it. -/
def Obligations.SignedIntegerIsFloor : Prop :=
  (∀ (s : State) (b0 b1 b2 : Byte), ∃ io fo raw,
    exec (.decQ16_4 b0 b1 b2) s = .next { s with out := decoderResult io fo raw } ∧
    RoundsTo .floor (signedValue io fo) io.toInt) ∧
  (∀ (s : State) (b0 b1 : Byte), ∃ io fo raw,
    exec (.decQ8_4 b0 b1) s = .next { s with out := decoderResult io fo raw } ∧
    RoundsTo .floor (signedValue io fo) io.toInt)

/-! The control-register encoders. -/

/-- R131: ENC_OS, in range and out of range. -/
def Obligations.EncOsResult : Prop :=
  Selects 0x03 (fun w r => .encOs (intOperand w r.ia)) ∧
  ∀ (s : State) (os : Int),
    (0 ≤ os ∧ os ≤ 7 → ∃ y : Byte, exec (.encOs os) s = .next { s with out := byteResult 0x26 y } ∧ (y.toNat : Int) = os * 8) ∧
    (os < 0 ∨ 7 < os → exec (.encOs os) s = .next { s with out := errorResult 0b01 })

/-- R132: ENC_ALT. -/
def Obligations.EncAltResult : Prop :=
  Selects 0x04 (fun _ r => .encAlt r.fa) ∧
  ∀ (s : State) (alt : Bool),
    exec (.encAlt alt) s = .next { s with out := byteResult 0x26 (if alt then 0x80 else 0x00) }

/-- R133: ENC_RST. -/
def Obligations.EncRstResult : Prop :=
  Selects 0x05 (fun _ r => .encRst r.fa) ∧
  ∀ (s : State) (rst : Bool),
    exec (.encRst rst) s = .next { s with out := byteResult 0x26 (if rst then 0x04 else 0x00) }

/-- R134: ENC_SBYB. -/
def Obligations.EncSbybResult : Prop :=
  Selects 0x06 (fun _ r => .encSbyb r.fa) ∧
  ∀ (s : State) (active : Bool),
    exec (.encSbyb active) s = .next { s with out := byteResult 0x26 (if active then 0x01 else 0x00) }

/-- R135: ENC_EVENT, the four inputs. -/
def Obligations.EncEventResult : Prop :=
  Selects 0x07 (fun _ r => .encEvent r.fa r.fb) ∧
  ∀ s : State,
    exec (.encEvent false false) s = .next { s with out := byteResult 0x13 0x00 } ∧
    exec (.encEvent true false) s = .next { s with out := byteResult 0x13 0x05 } ∧
    exec (.encEvent false true) s = .next { s with out := byteResult 0x13 0x06 } ∧
    exec (.encEvent true true) s = .next { s with out := byteResult 0x13 0x07 }

/-- R136: ENC_CTRL1, in range and out of range. The four fields do not overlap (R29), so the OR is their sum. -/
def Obligations.EncCtrl1Result : Prop :=
  Selects 0x08 (fun w r => .encCtrl1 (intOperand w r.ia) r.fa r.fb r.fc) ∧
  ∀ (s : State) (os : Int) (alt rst active : Bool),
    (0 ≤ os ∧ os ≤ 7 → ∃ y : Byte, exec (.encCtrl1 os alt rst active) s = .next { s with out := byteResult 0x26 y } ∧
      (y.toNat : Int) = (if alt then 0x80 else 0) + os * 8 + (if rst then 0x04 else 0) + (if active then 0x01 else 0)) ∧
    (os < 0 ∨ 7 < os → exec (.encCtrl1 os alt rst active) s = .next { s with out := errorResult 0b01 })

/-- R137(a), (b): ENC_CTRL1's byte is the OR of the four field bytes, which are pairwise disjoint, so the OR is their sum. -/
def Obligations.Ctrl1IsOrOfFields : Prop :=
  ∀ (s : State) (os : Int) (a r c : Bool), 0 ≤ os ∧ os ≤ 7 → ∃ y ya yo yr ys : Byte,
    exec (.encCtrl1 os a r c) s = .next { s with out := byteResult 0x26 y } ∧
    exec (.encAlt a) s = .next { s with out := byteResult 0x26 ya } ∧
    exec (.encOs os) s = .next { s with out := byteResult 0x26 yo } ∧
    exec (.encRst r) s = .next { s with out := byteResult 0x26 yr } ∧
    exec (.encSbyb c) s = .next { s with out := byteResult 0x26 ys } ∧
    y = ya ||| yo ||| yr ||| ys ∧ y = ya + yo + yr + ys ∧
    ya &&& yo = 0 ∧ ya &&& yr = 0 ∧ ya &&& ys = 0 ∧ yo &&& yr = 0 ∧ yo &&& ys = 0 ∧ yr &&& ys = 0

/-- R137(c), (d): ENC_CTRL1 is injective on valid operands, and produces exactly the bytes with bits 6 and 1 clear, 64 of them. -/
def Obligations.Ctrl1BytesAreThe64 : Prop :=
  (∀ (s t : State) (os os' : Int) (a a' r r' c c' : Bool), 0 ≤ os ∧ os ≤ 7 → 0 ≤ os' ∧ os' ≤ 7 →
    exec (.encCtrl1 os a r c) s = .next t → exec (.encCtrl1 os' a' r' c') s = .next t →
    os = os' ∧ a = a' ∧ r = r' ∧ c = c') ∧
  (∀ (s : State) (y : Byte),
    (∃ os a r c, 0 ≤ os ∧ os ≤ 7 ∧ exec (.encCtrl1 os a r c) s = .next { s with out := byteResult 0x26 y }) ↔
      (y.getLsbD 6 = false ∧ y.getLsbD 1 = false)) ∧
  ((List.range 256).filter (fun n => !(BitVec.ofNat 8 n).getLsbD 6 && !(BitVec.ofNat 8 n).getLsbD 1)).length = 64

/-! The register decoders and the register map. -/

/-- R160: DEC_CTRL1. -/
def Obligations.DecCtrl1Result : Prop :=
  Selects 0x09 (fun _ r => .decCtrl1 r.b0) ∧
  ∀ (s : State) (b : Byte), ∃ o : BitVec 3,
    exec (.decCtrl1 b) s = .next { s with out := ctrlResult o (b.toNat / 128 % 2 == 1) (b.toNat / 4 % 2 == 1) (b.toNat % 2 == 1) } ∧
    o.toNat = b.toNat / 8 % 8

/-- R161: DEC_CTRL1 recovers what ENC_CTRL1 and ENC_OS encoded, and re-encoding a decoded byte keeps it but for bits 6 and 1. -/
def Obligations.Ctrl1RoundTrip : Prop :=
  (∀ (s : State) (os : Int) (a r c : Bool), 0 ≤ os ∧ os ≤ 7 → ∃ y o,
    exec (.encCtrl1 os a r c) s = .next { s with out := byteResult 0x26 y } ∧
    exec (.decCtrl1 y) s = .next { s with out := ctrlResult o a r c } ∧ (o.toNat : Int) = os) ∧
  (∀ (s : State) (os : Int), 0 ≤ os ∧ os ≤ 7 → ∃ y o t,
    exec (.encOs os) s = .next { s with out := byteResult 0x26 y } ∧ exec (.decCtrl1 y) s = .next t ∧
    t.out.oOs = some o ∧ (o.toNat : Int) = os) ∧
  (∀ (s : State) (b : Byte), ∃ o a r c,
    exec (.decCtrl1 b) s = .next { s with out := ctrlResult o a r c } ∧
    exec (.encCtrl1 o.toNat a r c) s = .next { s with out := byteResult 0x26 (b &&& 0xBD) })

/-- R162: DEC_STATUS. -/
def Obligations.DecStatusResult : Prop :=
  Selects 0x0A (fun _ r => .decStatus r.b0) ∧
  ∀ (s : State) (b : Byte),
    exec (.decStatus b) s = .next { s with out := statusResult (b.toNat / 8 % 2 == 1) (b.toNat / 4 % 2 == 1) (b.toNat / 2 % 2 == 1) }

/-- R164 over R52: REG_WIDTH gives the width of the entry that starts at the address, and 0 where none does. -/
def Obligations.RegWidthResult : Prop :=
  Selects 0x0B (fun _ r => .regWidth r.b0) ∧
  ∀ (s : State) (a : Byte), ∃ w : Nat,
    exec (.regWidth a) s = .next { s with out := integerResult (BitVec.ofNat 32 w) } ∧
    ((a.toNat, w) ∈ registerMapRows ∨ (w = 0 ∧ ∀ w', (a.toNat, w') ∉ registerMapRows))

/-- R53: the spans are no partition. Byte 0x1E lies in the spans of PRES_MIN and TEMP_MIN and is the only byte in two spans;
0x20 and 0x2E to 0xFF lie in none, and every other byte lies in one. -/
def Obligations.SpansAreNoPartition : Prop :=
  (∃ e ∈ regMap, ∃ e' ∈ regMap, e.name = .presMin ∧ e'.name = .tempMin ∧ e.spans 0x1E ∧ e'.spans 0x1E) ∧
  ∀ a : Byte,
    ((∃ e ∈ regMap, e.spans a) ↔ ¬ (a.toNat = 0x20 ∨ 0x2E ≤ a.toNat)) ∧
    ((∃ e ∈ regMap, ∃ e' ∈ regMap, e ≠ e' ∧ e.spans a ∧ e'.spans a) ↔ a.toNat = 0x1E)

/-- R39, R165: an encoder's byte count `NB` is the width the register map declares for its target `AO`. -/
def Obligations.EncodedWidthMatchesMap : Prop :=
  ∀ (i : Instr) (s t : State) (a : Byte) (n : BitVec 2), exec i s = .next t → t.out.ao = some a → t.out.nb = some n →
    (a.toNat, n.toNat) ∈ registerMapRows ∧ regWidthAt a = n.toNat

/-! The value encoders. -/

/-- R191, R223(a), (b): ENC_BAR_IN, in its four cases. -/
def Obligations.EncBarInResult : Prop :=
  Selects 0x0C (fun w r => .encBarIn (intOperand w r.ia)) ∧
  ∀ (s : State) (p : Int),
    (0 ≤ p ∧ p ≤ 131071 → ∃ hi lo : Byte,
      exec (.encBarIn p) s = .next { s with out := twoByteResult 0x14 hi lo } ∧ (256 * hi.toNat + lo.toNat : Int) = p / 2) ∧
    (131072 ≤ p → s.cfg.barInOverflow = .wrap → ∃ hi lo : Byte,
      exec (.encBarIn p) s = .next { s with out := twoByteResult 0x14 hi lo } ∧ (256 * hi.toNat + lo.toNat : Int) = p / 2 % 65536) ∧
    (131072 ≤ p → s.cfg.barInOverflow = .refuse → exec (.encBarIn p) s = .refused .barInOverflow) ∧
    (p < 0 → exec (.encBarIn p) s = .refused .negativePressure)

/-- R193: DEF_SLP, and, which the spec derives from R191 and R193, that ENC_BAR_IN of it gives 0xC5, 0xE7. -/
def Obligations.DefSlpResult : Prop :=
  Selects 0x0D (fun _ _ => .defSlp) ∧
  ∀ s : State, ∃ io : BitVec 32,
    exec .defSlp s = .next { s with out := integerResult io } ∧ io.toNat = 101326 ∧
    exec (.encBarIn io.toNat) s = .next { s with out := twoByteResult 0x14 0xC5 0xE7 }

/-- R194, R223(c): ENC_OFF_H, in range and refused. -/
def Obligations.EncOffHResult : Prop :=
  Selects 0x0E (fun w r => .encOffH (intOperand w r.ia)) ∧
  ∀ (s : State) (h : Int),
    (-128 ≤ h ∧ h ≤ 127 → ∃ y : Byte, exec (.encOffH h) s = .next { s with out := byteResult 0x2D y } ∧ y.toInt = h) ∧
    (h < -128 ∨ 127 < h → exec (.encOffH h) s = .refused .altitudeOffsetOutsideInt8)

/-- R195, R196: ENC_OFF_P under each rounding: the byte, read as signed, is p/4 rounded. -/
def Obligations.EncOffPResult : Prop :=
  Selects 0x0F (fun w r => .encOffP (intOperand w r.ia)) ∧
  ∀ (s : State) (p : Int),
    (-512 ≤ p ∧ p ≤ 508 → ∃ y : Byte, exec (.encOffP p) s = .next { s with out := byteResult 0x2B y } ∧
      (s.cfg.presOffRound = .trunc → RoundsTo .trunc ((p : Rat) / 4) y.toInt) ∧
      (s.cfg.presOffRound = .floor → RoundsTo .floor ((p : Rat) / 4) y.toInt)) ∧
    (p < -512 ∨ 508 < p → exec (.encOffP p) s = .next { s with out := errorResult 0b01 })

/-- R197: ENC_OFF_T under each rounding: the byte, read as signed, is 16·t rounded; the target is per R198. -/
def Obligations.EncOffTResult : Prop :=
  Selects 0x10 (fun _ r => .encOffT r.qa) ∧
  ∀ (s : State) (t : Rat),
    (-8 ≤ t ∧ t ≤ 127 / 16 → ∃ y : Byte,
      exec (.encOffT t) s =
        .next { s with out := byteResult (if s.cfg.tempOffsetTarget = .offTemp then 0x2C else 0x2B) y } ∧
      (s.cfg.tempOffRound = .trunc → RoundsTo .trunc (16 * t) y.toInt) ∧
      (s.cfg.tempOffRound = .floor → RoundsTo .floor (16 * t) y.toInt) ∧
      (s.cfg.tempOffRound = .nearest → RoundsTo .nearest (16 * t) y.toInt)) ∧
    (t < -8 ∨ 127 / 16 < t → exec (.encOffT t) s = .next { s with out := errorResult 0b01 })

/-- R198: the default target is OFF_TEMP; under the two settings of `TEMP_OFFSET_TARGET` the data byte is the same and the
target is 0x2C or 0x2B. -/
def Obligations.TempTargetParameterMovesOnlyAddress : Prop :=
  ({} : Config).tempOffsetTarget = .offTemp ∧
  ∀ (s : State) (t : Rat), -8 ≤ t ∧ t ≤ 127 / 16 → ∃ (y : Byte) (u v : State),
    exec (.encOffT t) { s with cfg := { s.cfg with tempOffsetTarget := .offTemp } } = .next u ∧ u.out = byteResult 0x2C y ∧
    exec (.encOffT t) { s with cfg := { s.cfg with tempOffsetTarget := .offPres } } = .next v ∧ v.out = byteResult 0x2B y

/-- The column "this spec" of R6, by what the operations do before any parameter is set (log 2): `IA` is 32 bits wide (log 1), so all
ones on it are -1 (R73), -5 Pa and -0.1 °C truncate, the temperature target is 0x2C, the wide altitude offset and the overflowing
pressure are refused, the poll has no bound. -/
def Obligations.ParametersStartAtSpecDefaults : Prop :=
  State.reset.cfg.wInt = 32 ∧
  decode State.reset.cfg.wInt { Request.ofOp 0x03 with ia := 0xFFFFFFFF } = .ok (.encOs (-1)) ∧
  exec (.encOffP (-5)) State.reset = .next { State.reset with out := byteResult 0x2B 0xFF } ∧
  exec (.encOffT (-1 / 10)) State.reset = .next { State.reset with out := byteResult 0x2C 0xFF } ∧
  exec (.encOffH 128) State.reset = .refused .altitudeOffsetOutsideInt8 ∧
  exec (.encBarIn 131072) State.reset = .refused .barInOverflow ∧
  State.reset.cfg.pollMax = none ∧ State.reset.cfg.pollInterval = none

/-! What holds of every operation. -/

/-- An operation changes the output ports and nothing else: no parameter, no input port, no bus action (R12, R20 to R24). -/
def Obligations.OperationsChangeOnlyOutputs : Prop :=
  ∀ (i : Instr) (s t : State), exec i s = .next t → SameButOutputs s t

/-- R27: an operation reads only the ports its row of R71 names; every other input is don't-care, refusals included. -/
def Obligations.UnreadPortsDontMatter : Prop :=
  ∀ (s : State) (r q : Request), r.op = q.op → AgreeOnReads s.cfg.wInt r.op r q →
    (∃ o, evaluate { s with req := r } = .next { s with req := r, out := o } ∧
      evaluate { s with req := q } = .next { s with req := q, out := o }) ∨
    (∃ x, evaluate { s with req := r } = .refused x ∧ evaluate { s with req := q } = .refused x)

/-- The "drives" column of R71: a success drives exactly the named data ports, an error none of them. -/
def Obligations.OperationsDriveTheirPorts : Prop :=
  ∀ (i : Instr) (s t : State), exec i s = .next t →
    (t.out.err = some 0b00 ∧ t.out.DrivesExactly (driveGroupOf i)) ∨ t.out = errorResult 0b01

/-- R23, R226, R265: the outcome of a request depends on the request and the parameters alone, whatever ran before it. -/
def Obligations.EvaluationForgetsHistory : Prop :=
  ∀ s s' : State, s.req = s'.req → s.cfg = s'.cfg →
    (∃ o, evaluate s = .next { s with out := o } ∧ evaluate s' = .next { s' with out := o }) ∨
    (∃ x, evaluate s = .refused x ∧ evaluate s' = .refused x)

/-- R58: evaluating a request twice gives the same result as once. -/
def Obligations.EvaluationIsIdempotent : Prop :=
  ∀ s t : State, evaluate s = .next t → evaluate t = .next t

/-- R26, R220: after every evaluation the output ports are legal, and `ERR` is driven. -/
def Obligations.EvaluationOutputsLegal : Prop :=
  ∀ s t : State, evaluate s = .next t → t.out.Legal ∧ t.out.err.isSome

/-- R221: all the causes of `E_RANGE`, and no other. -/
def Obligations.RangeErrorCauses : Prop :=
  ∀ (i : Instr) (s : State),
    exec i s = .next { s with out := errorResult 0b01 } ↔
      (∃ os, i = .encOs os ∧ ¬ (0 ≤ os ∧ os ≤ 7)) ∨ (∃ os a r c, i = .encCtrl1 os a r c ∧ ¬ (0 ≤ os ∧ os ≤ 7)) ∨
      (∃ p, i = .encOffP p ∧ ¬ (-512 ≤ p ∧ p ≤ 508)) ∨ (∃ t, i = .encOffT t ∧ ¬ (-8 ≤ t ∧ t ≤ 127 / 16))

/-- R223: all the refused operand values; every other request has a next state. -/
def Obligations.RefusedOperandsExactly : Prop :=
  ∀ (i : Instr) (s : State),
    ((∃ t, exec i s = .next t) ↔
      ¬ ((∃ p, i = .encBarIn p ∧ (p < 0 ∨ (0xFFFF < p / 2 ∧ s.cfg.barInOverflow = .refuse))) ∨
         (∃ h, i = .encOffH h ∧ ¬ (-128 ≤ h ∧ h ≤ 127)))) ∧
    ((¬ ∃ t, exec i s = .next t) → ∃ x, exec i s = .refused x)

/-- R76, D6: what the assembler accepts can be presented on the ports and decodes back from them; a line is accepted as an
instruction exactly when its first word is the instruction's mnemonic and the texts between its commas are literals of its operands;
a line written as R76 has it, the mnemonic, then operand literals separated by commas, then a comment or none, is accepted as that
instruction; and literals denote what R76 says (log 20 says what the assembler takes where R76 leaves it open, and that a literal lies
in the range of R9). -/
def Obligations.AssembledInstructionsArePresentable : Prop :=
  (∀ (w : Nat) (line : String) (i : Instr), assemble w line = .ok i → i.WellFormed w ∧ decode w (encode w i) = .ok i) ∧
  (∀ (w : Nat) (line : String) (i : Instr),
    assemble w line = .ok i ↔ mnemonicText line = i.mnemonic.toList ∧ OperandsRead w i (operandTexts line)) ∧
  (∀ (w : Nat) (line : String) (i : Instr) (texts : List (List Char)),
    WrittenAs line.toList i.mnemonic.toList texts → OperandsRead w i texts → assemble w line = .ok i) ∧
  (∀ ds, IsDigits 10 ds → parseInteger (digitsText ds) = some (digitsValue 10 ds) ∧
    parseInteger ('-' :: digitsText ds) = some (-(digitsValue 10 ds : Int))) ∧
  (∀ ds, IsDigits 16 ds → parseInteger ('0' :: 'x' :: digitsText ds) = some (digitsValue 16 ds)) ∧
  (∀ ds fs, IsDigits 10 ds → IsDigits 10 fs →
    (parseCelsius (digitsText ds ++ '.' :: digitsText fs) =
      some ((digitsValue 10 ds : Rat) + (digitsValue 10 fs : Rat) / 10 ^ fs.length)) ∧
    (parseCelsius ('-' :: digitsText ds ++ '.' :: digitsText fs) =
      some (-((digitsValue 10 ds : Rat) + (digitsValue 10 fs : Rat) / 10 ^ fs.length))) ∧
    (digitsValue 10 fs ≠ 0 →
      parseCelsius (digitsText ds ++ '/' :: digitsText fs) = some ((digitsValue 10 ds : Rat) / (digitsValue 10 fs : Rat)) ∧
      parseCelsius ('-' :: digitsText ds ++ '/' :: digitsText fs) =
        some (-((digitsValue 10 ds : Rat) / (digitsValue 10 fs : Rat)))))

/-! The host contract. -/

/-- The document's state machine (60_exceptions.md section 3): a measurement goes Configuring, Polling, Reading, Done, with Failed
reachable from each; a call gives one result where it ends and none before. The next call begins where no call is under way or the
one under way ends: in its first phase, with its first request on the ports (R237, R238, R245, R246), the rest still waiting. Which phase is which state, and that the short
operations of R245 end in Done or Failed, is the model's choice (log 25); so is that the ports hold where no call waits (log 6). -/
def Obligations.StagesFollowContract : Prop :=
  ∀ s t : State, step s = .next t →
    match s.phase.stage with
    | .idle => t.results = s.results ∧ t.trace = s.trace ∧ BeginsNext .idle s t
    | .configuring => (GoesOn s t ∧ (t.phase.stage = .configuring ∨ t.phase.stage = .polling)) ∨ EndsFailed s t
    | .polling => (GoesOn s t ∧ (t.phase.stage = .polling ∨ t.phase.stage = .reading)) ∨ EndsFailed s t
    | .reading => (GoesOn s t ∧ t.phase.stage = .reading) ∨ EndsDone s t ∨ EndsFailed s t
    | .other => EndsDone s t ∨ EndsFailed s t
    | .done => t.results = s.results ∧ t.trace = s.trace ∧ BeginsNext .done s t
    | .failed => t.results = s.results ∧ t.trace = s.trace ∧ BeginsNext .failed s t

/-- R238: the first write of a measurement. -/
def Obligations.FirstWriteSetsModeAndOversample : Prop :=
  ∀ (s : State) (os : IntPort) (mode : PressureMode), s.phase = .configMode os mode →
    s.req = encode s.cfg.wInt (.encCtrl1 (intOperand s.cfg.wInt os) (mode == .altimeter) false false) →
    (¬ (0 ≤ (intOperand s.cfg.wInt os) ∧ (intOperand s.cfg.wInt os) ≤ 7) → ∃ t, step s = .next t ∧ t.results = s.results ++ [.failed .range] ∧ t.trace = s.trace) ∧
    (0 ≤ (intOperand s.cfg.wInt os) ∧ (intOperand s.cfg.wInt os) ≤ 7 → (busAnswer s).1 = none → ∃ t c, step s = .next t ∧
      ((c : Byte).toNat : Int) = (if mode = .altimeter then 0x80 else 0) + (intOperand s.cfg.wInt os) * 8 ∧
      t.trace = s.trace ++ [.write [0x26, c] none] ∧ t.results = s.results ∧ t.calls = s.calls ∧
      t.phase = .configEvent os mode ∧ t.req = encode s.cfg.wInt (.encEvent true true))

/-- R239: the second write of a measurement. -/
def Obligations.SecondWriteEnablesEvents : Prop :=
  ∀ (s : State) (os : IntPort) (mode : PressureMode), s.phase = .configEvent os mode →
    s.req = encode s.cfg.wInt (.encEvent true true) → (busAnswer s).1 = none → ∃ t, step s = .next t ∧
      t.trace = s.trace ++ [.write [0x13, 0x07] none] ∧ t.results = s.results ∧ t.calls = s.calls ∧
      t.phase = .configActive os mode ∧ t.req = encode s.cfg.wInt (.encCtrl1 (intOperand s.cfg.wInt os) (mode == .altimeter) false true)

/-- R240: the third write of a measurement, the first write's byte with bit 0 set; then the poll begins. -/
def Obligations.ThirdWriteActivates : Prop :=
  ∀ (s : State) (os : IntPort) (mode : PressureMode) (v : Byte), s.phase = .configActive os mode →
    s.req = encode s.cfg.wInt (.encCtrl1 (intOperand s.cfg.wInt os) (mode == .altimeter) false true) → 0 ≤ (intOperand s.cfg.wInt os) ∧ (intOperand s.cfg.wInt os) ≤ 7 →
    (∃ rest, s.busReplies = none :: none :: rest) → (∃ rest, s.devBytes = v :: rest) → ∃ t c, step s = .next t ∧
      exec (.encCtrl1 (intOperand s.cfg.wInt os) (mode == .altimeter) false false) s = .next { s with out := byteResult 0x26 c } ∧
      t.trace = s.trace ++ [.write [0x26, c ||| 0x01] none, .sleep s.cfg.pollInterval, .readByte 0x00 v] ∧
      t.results = s.results ∧ t.calls = s.calls ∧ t.phase = .polling mode 1 ∧ t.req = encode s.cfg.wInt (.decStatus v)

/-- R241: a poll that saw the ready bit clear sleeps and reads STATUS again, or ends with the timeout error where `POLL_MAX`
bounds it (log 11 says what the bound counts). -/
def Obligations.PollRepeatsUntilReady : Prop :=
  ∀ (s : State) (mode : PressureMode) (n : Nat) (v : Byte), s.phase = .polling mode n → s.req = encode s.cfg.wInt (.decStatus v) →
    v.toNat / 8 % 2 = 0 →
    ((s.cfg.pollMax = none ∨ ∃ m, s.cfg.pollMax = some m ∧ n < m) →
      ∀ w, (∃ rest, s.busReplies = none :: rest) → (∃ rest, s.devBytes = w :: rest) → ∃ t, step s = .next t ∧
        t.trace = s.trace ++ [.sleep s.cfg.pollInterval, .readByte 0x00 w] ∧ t.results = s.results ∧
        t.phase = .polling mode (n + 1) ∧ t.req = encode s.cfg.wInt (.decStatus w)) ∧
    (∀ m, s.cfg.pollMax = some m → m ≤ n → ∃ t, step s = .next t ∧ t.trace = s.trace ∧
      t.results = s.results ++ [.failed .timeout])

/-- R242, R163, R55: when the ready bit is set the host sets the cursor to STATUS and reads the six bytes in one transfer; then
the pressure bytes go to the decoder of the mode (R243). That the read leaves the cursor at STATUS is the model's choice (log 26). -/
def Obligations.ReadyPollReadsBlock : Prop :=
  ∀ (s : State) (mode : PressureMode) (n : Nat) (v r0 r1 r2 r3 r4 r5 : Byte), s.phase = .polling mode n →
    s.req = encode s.cfg.wInt (.decStatus v) → v.toNat / 8 % 2 = 1 → (∃ rest, s.busReplies = none :: none :: rest) →
    (∃ rest, s.devBytes = r0 :: r1 :: r2 :: r3 :: r4 :: r5 :: rest) → ∃ t b, step s = .next t ∧
      b = (MeasBlock.mk r0 r1 r2 r3 r4 r5) ∧ t.trace = s.trace ++ [.write [0x00] none, .readBytes (some 0x00) b.bytes] ∧ t.results = s.results ∧
      t.cursor = some 0x00 ∧
      t.phase = .convertMain mode b ∧
      t.req = (match mode with | .barometer => encode s.cfg.wInt (.decQ18_2 r1 r2 r3) | .altimeter => encode s.cfg.wInt (.decQ16_4 r1 r2 r3))

/-- R243: the two conversions, without bus access, and the two values returned. -/
def Obligations.ConversionReturnsBothValues : Prop :=
  (∀ (s : State) (mode : PressureMode) (b : MeasBlock), s.phase = .convertMain mode b →
    s.req = (match mode with
      | .barometer => encode s.cfg.wInt (.decQ18_2 b.pMsb b.pCsb b.pLsb) | .altimeter => encode s.cfg.wInt (.decQ16_4 b.pMsb b.pCsb b.pLsb)) →
    ∃ t, step s = .next t ∧ t.trace = s.trace ∧ t.results = s.results ∧ t.req = encode s.cfg.wInt (.decQ8_4 b.tMsb b.tLsb) ∧
      t.phase = .convertTemp mode b (match mode with
        | .barometer => ((1024 * b.pMsb.toNat + 4 * b.pCsb.toNat + b.pLsb.toNat / 64 : Nat) : Rat) + ((b.pLsb.toNat / 16 % 4 : Nat) : Rat) / 4
        | .altimeter => ((b.pMsb ++ b.pCsb).toInt : Rat) + ((b.pLsb.toNat / 16 : Nat) : Rat) / 16)) ∧
  (∀ (s : State) (mode : PressureMode) (b : MeasBlock) (value : Rat), s.phase = .convertTemp mode b value →
    s.req = encode s.cfg.wInt (.decQ8_4 b.tMsb b.tLsb) → ∃ t, step s = .next t ∧ t.trace = s.trace ∧
      t.results = s.results ++ [.measured mode value ((b.tMsb.toInt : Rat) + ((b.tLsb.toNat / 16 : Nat) : Rat) / 16)])

/-- R244, R227: a bus failure in one of the three writes of the configuration, in the first status read or a later one, in the cursor
write or in the read of the block fails the call with the bus's own error, and no value is returned; the write that failed was of the
contract's bytes. (Whether a later status read is made under `POLL_MAX` is log 11.) -/
def Obligations.BusFailureFailsCall : Prop :=
  (∀ (s : State) (os : IntPort) (mode : PressureMode) (e : Nat), 0 ≤ (intOperand s.cfg.wInt os) ∧ (intOperand s.cfg.wInt os) ≤ 7 →
    (s.phase = .configMode os mode →
      s.req = encode s.cfg.wInt (.encCtrl1 (intOperand s.cfg.wInt os) (mode == .altimeter) false false) → (busAnswer s).1 = some e →
      ∃ t c, step s = .next t ∧
        ((c : Byte).toNat : Int) = (if mode = .altimeter then 0x80 else 0) + (intOperand s.cfg.wInt os) * 8 ∧
        t.results = s.results ++ [.failed (.bus e)] ∧ t.trace = s.trace ++ [.write [0x26, c] (some e)]) ∧
    (s.phase = .configEvent os mode → s.req = encode s.cfg.wInt (.encEvent true true) → (busAnswer s).1 = some e →
      ∃ t, step s = .next t ∧
        t.results = s.results ++ [.failed (.bus e)] ∧ t.trace = s.trace ++ [.write [0x13, 0x07] (some e)]) ∧
    (s.phase = .configActive os mode →
      s.req = encode s.cfg.wInt (.encCtrl1 (intOperand s.cfg.wInt os) (mode == .altimeter) false true) →
      ∃ c : Byte, (c.toNat : Int) = (if mode = .altimeter then 0x80 else 0) + (intOperand s.cfg.wInt os) * 8 ∧
      ((busAnswer s).1 = some e → ∃ t, step s = .next t ∧
        t.results = s.results ++ [.failed (.bus e)] ∧ t.trace = s.trace ++ [.write [0x26, c ||| 0x01] (some e)]) ∧
      ((∃ rest, s.busReplies = none :: some e :: rest) → ∃ t, step s = .next t ∧
        t.results = s.results ++ [.failed (.bus e)] ∧
        t.trace = s.trace ++ [.write [0x26, c ||| 0x01] none, .sleep s.cfg.pollInterval, .readByteFailed 0x00 e]))) ∧
  (∀ (s : State) (mode : PressureMode) (n : Nat) (v : Byte) (e : Nat), s.phase = .polling mode n →
    s.req = encode s.cfg.wInt (.decStatus v) →
    (v.toNat / 8 % 2 = 0 → (s.cfg.pollMax = none ∨ ∃ m, s.cfg.pollMax = some m ∧ n < m) → (busAnswer s).1 = some e →
      ∃ t, step s = .next t ∧
      t.results = s.results ++ [.failed (.bus e)] ∧
      t.trace = s.trace ++ [.sleep s.cfg.pollInterval, .readByteFailed 0x00 e]) ∧
    (v.toNat / 8 % 2 = 1 → (busAnswer s).1 = some e → ∃ t, step s = .next t ∧
      t.results = s.results ++ [.failed (.bus e)] ∧ t.trace = s.trace ++ [.write [0x00] (some e)]) ∧
    (v.toNat / 8 % 2 = 1 → (∃ rest, s.busReplies = none :: some e :: rest) → ∃ t, step s = .next t ∧
      t.results = s.results ++ [.failed (.bus e)] ∧ t.trace = s.trace ++ [.write [0x00] none, .readBytesFailed (some 0x00) 6 e]))

/-- R245(a), R268: the reset call writes 0x04 to CTRL_REG1 and is done however the bus answers. -/
def Obligations.ResetCallSuppressesBusFailure : Prop :=
  ∀ s : State, s.phase = .resetting → s.req = encode s.cfg.wInt (.encRst true) → ∃ t, step s = .next t ∧
    t.trace = s.trace ++ [.write [0x26, 0x04] (busAnswer s).1] ∧ t.results = s.results ++ [.written]

/-- R245(b), (c): setting the sea-level pressure writes the two bytes of ENC_BAR_IN, high byte first, of the half or, under
`BAR_IN_OVERFLOW = wrap`, of its low 16 bits; a bus failure of that write is the call's error (R227, R236); a pressure ENC_BAR_IN
refuses is refused (R223; log 9). Getting the default makes no bus access. -/
def Obligations.SeaLevelCalls : Prop :=
  (∀ (s : State) (pa : IntPort), s.phase = .settingSeaLevel pa → s.req = encode s.cfg.wInt (.encBarIn (intOperand s.cfg.wInt pa)) →
    ((0 ≤ (intOperand s.cfg.wInt pa) ∧ ((intOperand s.cfg.wInt pa) ≤ 131071 ∨ s.cfg.barInOverflow = .wrap)) →
      ∃ hi lo : Byte, (256 * hi.toNat + lo.toNat : Int) = (intOperand s.cfg.wInt pa) / 2 % 65536 ∧
      ((busAnswer s).1 = none → ∃ t, step s = .next t ∧
        t.trace = s.trace ++ [.write [0x14, hi, lo] none] ∧ t.results = s.results ++ [.written]) ∧
      (∀ e, (busAnswer s).1 = some e → ∃ t, step s = .next t ∧
        t.trace = s.trace ++ [.write [0x14, hi, lo] (some e)] ∧ t.results = s.results ++ [.failed (.bus e)])) ∧
    ((intOperand s.cfg.wInt pa) < 0 → step s = .refused .negativePressure) ∧
    (131072 ≤ (intOperand s.cfg.wInt pa) → s.cfg.barInOverflow = .refuse → step s = .refused .barInOverflow)) ∧
  (∀ s : State, s.phase = .gettingSeaLevel → s.req = encode s.cfg.wInt .defSlp → ∃ t, step s = .next t ∧ t.trace = s.trace ∧
    t.results = s.results ++ [.seaLevel 101326])

/-- R245(d): a compensation writes the encoder's byte to the encoder's target, and a bus failure of that write is the call's error
(R227, R236); on `E_RANGE` it writes nothing and returns the error; an operand the encoder refuses is refused (R223; log 9). -/
def Obligations.CompensationCalls : Prop :=
  ∀ (s : State) (i : Instr),
    ((∃ h, s.phase = .compensatingAltitude h ∧ i = .encOffH (intOperand s.cfg.wInt h)) ∨
      (∃ p, s.phase = .compensatingPressure p ∧ i = .encOffP (intOperand s.cfg.wInt p)) ∨
      (∃ q, s.phase = .compensatingTemperature q ∧ i = .encOffT q)) → s.req = encode s.cfg.wInt i →
    (∀ a y, exec i s = .next { s with out := byteResult a y } →
      ((busAnswer s).1 = none → ∃ t, step s = .next t ∧
        t.trace = s.trace ++ [.write [a, y] none] ∧ t.results = s.results ++ [.written]) ∧
      (∀ e, (busAnswer s).1 = some e → ∃ t, step s = .next t ∧
        t.trace = s.trace ++ [.write [a, y] (some e)] ∧ t.results = s.results ++ [.failed (.bus e)])) ∧
    (exec i s = .next { s with out := errorResult 0b01 } → ∃ t, step s = .next t ∧ t.trace = s.trace ∧
      t.results = s.results ++ [.failed .range]) ∧
    (∀ x, exec i s = .refused x → step s = .refused x)

/-- R60, R244: a step only adds to the bus trace and to the results (which the model keeps as logs: log 19), in program order. It takes
at most one waiting call, the oldest (R246; log 23), and changes no parameter (R6; log 2). -/
def Obligations.StepOnlyAppendsTraceAndResults : Prop :=
  ∀ s t : State, step s = .next t →
    (∃ l, t.trace = s.trace ++ l) ∧ (∃ l, t.results = s.results ++ l ∧ l.length ≤ 1) ∧ t.cfg = s.cfg ∧
    (∃ l, s.calls = l ++ t.calls ∧ l.length ≤ 1)

/-- R238 to R243: a whole measurement, in either mode, for every oversample code, every number of polls that saw the ready bit
clear (below `POLL_MAX`, if set: log 11), and every block: the bus trace of the contract, and the two values. -/
def Obligations.MeasurementEndToEnd : Prop :=
  ∀ (s : State) (os : IntPort) (mode : PressureMode) (waits : List Byte) (ready : Byte) (b : MeasBlock)
    (replies : List (Option Nat)) (bytes : List Byte),
    s.phase = .configMode os mode → s.req = encode s.cfg.wInt (.encCtrl1 (intOperand s.cfg.wInt os) (mode == .altimeter) false false) →
    0 ≤ (intOperand s.cfg.wInt os) ∧ (intOperand s.cfg.wInt os) ≤ 7 → (∀ v ∈ waits, v.toNat / 8 % 2 = 0) → ready.toNat / 8 % 2 = 1 →
    (s.cfg.pollMax = none ∨ ∃ m, s.cfg.pollMax = some m ∧ waits.length < m) →
    s.busReplies = List.replicate (waits.length + 6) none ++ replies →
    s.devBytes = waits ++ [ready, b.status, b.pMsb, b.pCsb, b.pLsb, b.tMsb, b.tLsb] ++ bytes →
    ∃ t c, runSteps (waits.length + 6) s = .next t ∧
      ((c : Byte).toNat : Int) = (if mode = .altimeter then 0x80 else 0) + (intOperand s.cfg.wInt os) * 8 ∧
      t.trace = s.trace ++ [.write [0x26, c] none, .write [0x13, 0x07] none, .write [0x26, c ||| 0x01] none] ++
        (waits ++ [ready]).flatMap (fun v => [.sleep s.cfg.pollInterval, .readByte 0x00 v]) ++
        [.write [0x00] none, .readBytes (some 0x00) b.bytes] ∧
      t.results = s.results ++ [.measured mode
        (match mode with
          | .barometer => ((1024 * b.pMsb.toNat + 4 * b.pCsb.toNat + b.pLsb.toNat / 64 : Nat) : Rat) + ((b.pLsb.toNat / 16 % 4 : Nat) : Rat) / 4
          | .altimeter => ((b.pMsb ++ b.pCsb).toInt : Rat) + ((b.pLsb.toNat / 16 : Nat) : Rat) / 16)
        ((b.tMsb.toInt : Rat) + ((b.tLsb.toNat / 16 : Nat) : Rat) / 16)]

/-- R270: without `POLL_MAX` the poll has no bound: for every number of turns there is a device that keeps the host polling. -/
def Obligations.UnboundedPollMayNeverEnd : Prop :=
  ∀ (s : State) (mode : PressureMode) (reads n : Nat) (v : Byte), s.phase = .polling mode reads → s.req = encode s.cfg.wInt (.decStatus v) →
    v.toNat / 8 % 2 = 0 → s.cfg.pollMax = none → s.busReplies = List.replicate n none → s.devBytes = List.replicate n v →
    ∃ t, runSteps n s = .next t ∧ t.phase = .polling mode (reads + n) ∧ t.results = s.results

/-- R2, R11, R76, R78: a request of the caller's own returns the output ports as the block drove them, an error with them, makes no
bus access, and the next call begins, one at a time (log 23); that it begins in the same step, and that the request ends in the
stage done, is the model's choice (log 25). Where the block refuses its operand, the step is refused (log 9). -/
def Obligations.RequestCallReturnsOutputs : Prop :=
  ∀ s : State, s.phase = .requesting →
    (∀ u, evaluate s = .next u → ∃ t, step s = .next t ∧ t.results = s.results ++ [.outputs u.out] ∧ t.trace = s.trace ∧
      t.busReplies = s.busReplies ∧ t.devBytes = s.devBytes ∧ BeginsNext .done s t) ∧
    (∀ x, evaluate s = .refused x → step s = .refused x)
end

