-- ==== Sys2Proof/Laws/State.lean ====
section
/-! SUPPORT. One lemma per field per named update of the state, true by definition, so that no later proof unfolds a record
update. -/

namespace Sys2Proof.Machine

variable (s : State)

@[simp] theorem State.setOut_cfg (o : Outputs) : (s.setOut o).cfg = s.cfg := rfl
@[simp] theorem State.setOut_req (o : Outputs) : (s.setOut o).req = s.req := rfl
@[simp] theorem State.setOut_out (o : Outputs) : (s.setOut o).out = o := rfl
@[simp] theorem State.setOut_phase (o : Outputs) : (s.setOut o).phase = s.phase := rfl
@[simp] theorem State.setOut_calls (o : Outputs) : (s.setOut o).calls = s.calls := rfl
@[simp] theorem State.setOut_results (o : Outputs) : (s.setOut o).results = s.results := rfl
@[simp] theorem State.setOut_trace (o : Outputs) : (s.setOut o).trace = s.trace := rfl
@[simp] theorem State.setOut_busReplies (o : Outputs) : (s.setOut o).busReplies = s.busReplies := rfl
@[simp] theorem State.setOut_devBytes (o : Outputs) : (s.setOut o).devBytes = s.devBytes := rfl
@[simp] theorem State.setOut_freeCount (o : Outputs) : (s.setOut o).freeCount = s.freeCount := rfl
@[simp] theorem State.setOut_cursor (o : Outputs) : (s.setOut o).cursor = s.cursor := rfl

@[simp] theorem State.present_cfg (ph : Phase) (i : Instr) : (s.present ph i).cfg = s.cfg := rfl
@[simp] theorem State.present_req (ph : Phase) (i : Instr) : (s.present ph i).req = encode s.cfg.wInt i := rfl
@[simp] theorem State.present_out (ph : Phase) (i : Instr) : (s.present ph i).out = s.out := rfl
@[simp] theorem State.present_phase (ph : Phase) (i : Instr) : (s.present ph i).phase = ph := rfl
@[simp] theorem State.present_calls (ph : Phase) (i : Instr) : (s.present ph i).calls = s.calls := rfl
@[simp] theorem State.present_results (ph : Phase) (i : Instr) : (s.present ph i).results = s.results := rfl
@[simp] theorem State.present_trace (ph : Phase) (i : Instr) : (s.present ph i).trace = s.trace := rfl
@[simp] theorem State.present_busReplies (ph : Phase) (i : Instr) : (s.present ph i).busReplies = s.busReplies := rfl
@[simp] theorem State.present_devBytes (ph : Phase) (i : Instr) : (s.present ph i).devBytes = s.devBytes := rfl
@[simp] theorem State.present_freeCount (ph : Phase) (i : Instr) : (s.present ph i).freeCount = s.freeCount := rfl
@[simp] theorem State.present_cursor (ph : Phase) (i : Instr) : (s.present ph i).cursor = s.cursor := rfl

@[simp] theorem State.presentRequest_cfg (r : Request) : (s.presentRequest r).cfg = s.cfg := rfl
@[simp] theorem State.presentRequest_req (r : Request) : (s.presentRequest r).req = r := rfl
@[simp] theorem State.presentRequest_out (r : Request) : (s.presentRequest r).out = s.out := rfl
@[simp] theorem State.presentRequest_phase (r : Request) : (s.presentRequest r).phase = .requesting := rfl
@[simp] theorem State.presentRequest_calls (r : Request) : (s.presentRequest r).calls = s.calls := rfl
@[simp] theorem State.presentRequest_results (r : Request) : (s.presentRequest r).results = s.results := rfl
@[simp] theorem State.presentRequest_trace (r : Request) : (s.presentRequest r).trace = s.trace := rfl
@[simp] theorem State.presentRequest_busReplies (r : Request) : (s.presentRequest r).busReplies = s.busReplies := rfl
@[simp] theorem State.presentRequest_devBytes (r : Request) : (s.presentRequest r).devBytes = s.devBytes := rfl
@[simp] theorem State.presentRequest_freeCount (r : Request) : (s.presentRequest r).freeCount = s.freeCount := rfl
@[simp] theorem State.presentRequest_cursor (r : Request) : (s.presentRequest r).cursor = s.cursor := rfl

@[simp] theorem State.setCalls_cfg (cs : List Call) : (s.setCalls cs).cfg = s.cfg := rfl
@[simp] theorem State.setCalls_req (cs : List Call) : (s.setCalls cs).req = s.req := rfl
@[simp] theorem State.setCalls_out (cs : List Call) : (s.setCalls cs).out = s.out := rfl
@[simp] theorem State.setCalls_phase (cs : List Call) : (s.setCalls cs).phase = s.phase := rfl
@[simp] theorem State.setCalls_calls (cs : List Call) : (s.setCalls cs).calls = cs := rfl
@[simp] theorem State.setCalls_results (cs : List Call) : (s.setCalls cs).results = s.results := rfl
@[simp] theorem State.setCalls_trace (cs : List Call) : (s.setCalls cs).trace = s.trace := rfl
@[simp] theorem State.setCalls_busReplies (cs : List Call) : (s.setCalls cs).busReplies = s.busReplies := rfl
@[simp] theorem State.setCalls_devBytes (cs : List Call) : (s.setCalls cs).devBytes = s.devBytes := rfl
@[simp] theorem State.setCalls_freeCount (cs : List Call) : (s.setCalls cs).freeCount = s.freeCount := rfl
@[simp] theorem State.setCalls_cursor (cs : List Call) : (s.setCalls cs).cursor = s.cursor := rfl

@[simp] theorem State.endCall_cfg (ph : Phase) (r : CallResult) : (s.endCall ph r).cfg = s.cfg := rfl
@[simp] theorem State.endCall_req (ph : Phase) (r : CallResult) : (s.endCall ph r).req = s.req := rfl
@[simp] theorem State.endCall_out (ph : Phase) (r : CallResult) : (s.endCall ph r).out = s.out := rfl
@[simp] theorem State.endCall_phase (ph : Phase) (r : CallResult) : (s.endCall ph r).phase = ph := rfl
@[simp] theorem State.endCall_calls (ph : Phase) (r : CallResult) : (s.endCall ph r).calls = s.calls := rfl
@[simp] theorem State.endCall_results (ph : Phase) (r : CallResult) : (s.endCall ph r).results = s.results ++ [r] := rfl
@[simp] theorem State.endCall_trace (ph : Phase) (r : CallResult) : (s.endCall ph r).trace = s.trace := rfl
@[simp] theorem State.endCall_busReplies (ph : Phase) (r : CallResult) : (s.endCall ph r).busReplies = s.busReplies := rfl
@[simp] theorem State.endCall_devBytes (ph : Phase) (r : CallResult) : (s.endCall ph r).devBytes = s.devBytes := rfl
@[simp] theorem State.endCall_freeCount (ph : Phase) (r : CallResult) : (s.endCall ph r).freeCount = s.freeCount := rfl
@[simp] theorem State.endCall_cursor (ph : Phase) (r : CallResult) : (s.endCall ph r).cursor = s.cursor := rfl

@[simp] theorem State.logEvent_cfg (e : BusEvent) : (s.logEvent e).cfg = s.cfg := rfl
@[simp] theorem State.logEvent_req (e : BusEvent) : (s.logEvent e).req = s.req := rfl
@[simp] theorem State.logEvent_out (e : BusEvent) : (s.logEvent e).out = s.out := rfl
@[simp] theorem State.logEvent_phase (e : BusEvent) : (s.logEvent e).phase = s.phase := rfl
@[simp] theorem State.logEvent_calls (e : BusEvent) : (s.logEvent e).calls = s.calls := rfl
@[simp] theorem State.logEvent_results (e : BusEvent) : (s.logEvent e).results = s.results := rfl
@[simp] theorem State.logEvent_trace (e : BusEvent) : (s.logEvent e).trace = s.trace ++ [e] := rfl
@[simp] theorem State.logEvent_busReplies (e : BusEvent) : (s.logEvent e).busReplies = s.busReplies := rfl
@[simp] theorem State.logEvent_devBytes (e : BusEvent) : (s.logEvent e).devBytes = s.devBytes := rfl
@[simp] theorem State.logEvent_freeCount (e : BusEvent) : (s.logEvent e).freeCount = s.freeCount := rfl
@[simp] theorem State.logEvent_cursor (e : BusEvent) : (s.logEvent e).cursor = s.cursor := rfl

@[simp] theorem State.setCursor_cfg (a : Option Byte) : (s.setCursor a).cfg = s.cfg := rfl
@[simp] theorem State.setCursor_req (a : Option Byte) : (s.setCursor a).req = s.req := rfl
@[simp] theorem State.setCursor_out (a : Option Byte) : (s.setCursor a).out = s.out := rfl
@[simp] theorem State.setCursor_phase (a : Option Byte) : (s.setCursor a).phase = s.phase := rfl
@[simp] theorem State.setCursor_calls (a : Option Byte) : (s.setCursor a).calls = s.calls := rfl
@[simp] theorem State.setCursor_results (a : Option Byte) : (s.setCursor a).results = s.results := rfl
@[simp] theorem State.setCursor_trace (a : Option Byte) : (s.setCursor a).trace = s.trace := rfl
@[simp] theorem State.setCursor_busReplies (a : Option Byte) : (s.setCursor a).busReplies = s.busReplies := rfl
@[simp] theorem State.setCursor_devBytes (a : Option Byte) : (s.setCursor a).devBytes = s.devBytes := rfl
@[simp] theorem State.setCursor_freeCount (a : Option Byte) : (s.setCursor a).freeCount = s.freeCount := rfl
@[simp] theorem State.setCursor_cursor (a : Option Byte) : (s.setCursor a).cursor = a := rfl

@[simp] theorem State.setOut_setOut (o p : Outputs) : (s.setOut o).setOut p = s.setOut p := rfl

theorem sameButOutputs_setOut (o : Outputs) : SameButOutputs s (s.setOut o) := rfl

end Sys2Proof.Machine
end

