-- ==== Sys2Proof/Laws/Arith.lean ====
section
/-! SUPPORT. The exact arithmetic said in rationals: what rounding a quotient gives (R10), the temperature range (R197), the value of
a decoder's result (R110). -/

namespace Sys2Proof.Machine

/-- The range check on numerator and denominator is the range check on the rational. -/
theorem tempOffInRange_iff (t : Rat) : tempOffInRange t = true ↔ -8 ≤ t ∧ t ≤ 127 / 16 := by
  have hd : (0 : Rat) < (t.den : Rat) := by exact_mod_cast t.den_pos
  have ht : t = (t.num : Rat) / (t.den : Rat) := (Rat.num_div_den t).symm
  rw [tempOffInRange, decide_eq_true_iff]
  constructor
  · rintro ⟨h1, h2⟩
    have h1' : (-8 : Rat) * t.den ≤ t.num := by exact_mod_cast h1
    have h2' : (16 : Rat) * t.num ≤ 127 * t.den := by exact_mod_cast h2
    rw [ht]
    constructor
    · rw [le_div_iff₀ hd]; exact h1'
    · rw [div_le_iff₀ hd]; linarith
  · rintro ⟨h1, h2⟩
    rw [ht] at h1 h2
    rw [le_div_iff₀ hd] at h1
    rw [div_le_iff₀ hd] at h2
    constructor
    · exact_mod_cast h1
    · have : (16 : Rat) * t.num ≤ 127 * t.den := by linarith
      exact_mod_cast this

/-- The value of a signed result (R102, R108). -/
theorem signedValue_eq (io : BitVec 32) (fo : BitVec 4) :
    signedValue io fo = (io.toInt : Rat) + (fo.toNat : Rat) / 16 := by
  rw [signedValue, Rat.mkRat_eq_div]
  push_cast
  ring

/-- The value of DEC_Q18_2's result (R105). -/
theorem unsignedValue_eq (io : BitVec 32) (fo : BitVec 4) :
    unsignedValue io fo = (io.toNat : Rat) + (fo.toNat : Rat) / 4 := by
  rw [unsignedValue, Rat.mkRat_eq_div]
  push_cast
  ring

theorem roundsTo_floor_iff (n q : Int) (d : Nat) (hd : 0 < d) :
    RoundsTo .floor ((n : Rat) / d) q ↔ q * d ≤ n ∧ n < (q + 1) * d := by
  have hd' : (0 : Rat) < (d : Rat) := by exact_mod_cast hd
  simp only [RoundsTo]
  rw [le_div_iff₀ hd', div_lt_iff₀ hd']
  norm_cast

theorem roundsTo_trunc_iff (n q : Int) (d : Nat) (hd : 0 < d) :
    RoundsTo .trunc ((n : Rat) / d) q ↔ if 0 ≤ n then q * d ≤ n ∧ n < (q + 1) * d else (q - 1) * d < n ∧ n ≤ q * d := by
  have hd' : (0 : Rat) < (d : Rat) := by exact_mod_cast hd
  have h0 : (0 ≤ (n : Rat) / d) ↔ 0 ≤ n := by
    rw [le_div_iff₀ hd', zero_mul]
    norm_cast
  simp only [RoundsTo, h0]
  rw [le_div_iff₀ hd', div_lt_iff₀ hd', lt_div_iff₀ hd', div_le_iff₀ hd']
  norm_cast

theorem roundsTo_nearest_iff (n q : Int) (d : Nat) (hd : 0 < d) :
    RoundsTo .nearest ((n : Rat) / d) q ↔
      if 0 ≤ n then (2 * q - 1) * d ≤ 2 * n ∧ 2 * n < (2 * q + 1) * d
      else (2 * q - 1) * d < 2 * n ∧ 2 * n ≤ (2 * q + 1) * d := by
  have hd' : (0 : Rat) < (d : Rat) := by exact_mod_cast hd
  have h0 : (0 ≤ (n : Rat) / d) ↔ 0 ≤ n := by
    rw [le_div_iff₀ hd', zero_mul]
    norm_cast
  have e1 : ((q : Rat) - 1 / 2) * d ≤ n ↔ (2 * q - 1) * (d : Int) ≤ 2 * n := by
    rw [← Int.cast_le (R := Rat)]; push_cast
    constructor <;> intro h <;> linarith
  have e2 : (n : Rat) < ((q : Rat) + 1 / 2) * d ↔ 2 * n < (2 * q + 1) * (d : Int) := by
    rw [← Int.cast_lt (R := Rat)]; push_cast
    constructor <;> intro h <;> linarith
  have e3 : ((q : Rat) - 1 / 2) * d < n ↔ (2 * q - 1) * (d : Int) < 2 * n := by
    rw [← Int.cast_lt (R := Rat)]; push_cast
    constructor <;> intro h <;> linarith
  have e4 : (n : Rat) ≤ ((q : Rat) + 1 / 2) * d ↔ 2 * n ≤ (2 * q + 1) * (d : Int) := by
    rw [← Int.cast_le (R := Rat)]; push_cast
    constructor <;> intro h <;> linarith
  simp only [RoundsTo, h0]
  rw [le_div_iff₀ hd', div_lt_iff₀ hd', lt_div_iff₀ hd', div_le_iff₀ hd', e1, e2, e3, e4]

/-- Rounding a quotient gives what R10 says of its mode. -/
theorem roundQuotient_roundsTo (mode : Rounding) (n : Int) (d : Nat) (hd : 0 < d) :
    RoundsTo mode ((n : Rat) / d) (roundQuotient mode n d) := by
  have hdz : (0 : Int) < d := by exact_mod_cast hd
  cases mode with
  | floor =>
    rw [roundsTo_floor_iff n _ d hd, roundQuotient, Int.fdiv_eq_ediv_of_nonneg n (by omega)]
    have h1 := Int.mul_ediv_add_emod n d
    have h2 := Int.emod_nonneg n (b := d) (by omega)
    have h3 := Int.emod_lt_of_pos n hdz
    constructor <;> nlinarith
  | trunc =>
    rw [roundsTo_trunc_iff n _ d hd, roundQuotient]
    have h1 := Int.mul_tdiv_add_tmod n d
    split
    · next h =>
      have h2 := Int.tmod_nonneg d h
      have h3 := Int.tmod_lt_of_pos n hdz
      constructor <;> nlinarith
    · next h =>
      have h2 := Int.tmod_nonneg d (a := -n) (by omega)
      have h3 := Int.tmod_lt_of_pos (-n) hdz
      rw [Int.neg_tmod] at h2 h3
      constructor <;> nlinarith
  | nearest =>
    rw [roundsTo_nearest_iff n _ d hd, roundQuotient]
    have h1 := Nat.div_add_mod (2 * n.natAbs + d) (2 * d)
    have h2 := Nat.mod_lt (2 * n.natAbs + d) (show 0 < 2 * d by omega)
    generalize (2 * n.natAbs + d) / (2 * d) = k at h1 ⊢
    generalize (2 * n.natAbs + d) % (2 * d) = m at h1 h2
    have h1' : (2 * d * k + m : Int) = 2 * |n| + d := by
      have := congrArg (Nat.cast (R := Int)) h1
      push_cast at this
      exact this
    have h2' : (m : Int) < 2 * d := by exact_mod_cast h2
    rcases lt_trichotomy n 0 with h | h | h
    · rw [if_neg (by omega), Int.sign_eq_neg_one_of_neg h]
      rw [abs_of_neg h] at h1'
      constructor <;> nlinarith
    · subst h
      simp only [Int.sign_zero, zero_mul]
      rw [if_pos (le_refl 0)]
      constructor <;> nlinarith
    · rw [if_pos (by omega), Int.sign_eq_one_of_pos h]
      rw [abs_of_pos h] at h1'
      constructor <;> nlinarith

end Sys2Proof.Machine
end

