-- ==== Sys2Proof/Laws/Ops.lean ====
section
/-! SUPPORT. What each shared operation can do, said once: how an operation of the block ends, and what the bus primitives
change. -/

namespace Sys2Proof.Machine

theorem drive_eq (o : Outputs) (s : State) : drive o s = .next { s with out := o } := rfl

theorem raiseError_eq (code : BitVec 2) (s : State) : raiseError code s = .next { s with out := errorResult code } := rfl

theorem ofByte_eq (target y : Byte) : Outputs.ofByte target y = byteResult target y := rfl

theorem ofDecoder_eq (io : BitVec 32) (fo : BitVec 4) (raw : Raw) : Outputs.ofDecoder io fo raw = decoderResult io fo raw := rfl

theorem ofInteger_eq (io : BitVec 32) : Outputs.ofInteger io = integerResult io := rfl

theorem ofTwoBytes_eq (target : Byte) (v : BitVec 16) :
    Outputs.ofTwoBytes target v = twoByteResult target (v.extractLsb' 8 8) (v.extractLsb' 0 8) := rfl

theorem errorResult_legal (code : BitVec 2) (h : code ≠ 0b11) : (errorResult code).Legal where
  errCode := by simpa [errorResult] using h
  errorAlone := fun _ => rfl
  byteCount := Or.inl ⟨rfl, rfl, rfl⟩
  addressValid := Or.inl ⟨rfl, rfl, rfl⟩

theorem byteResult_legal (target y : Byte) : (byteResult target y).Legal where
  errCode := by simp [byteResult]
  errorAlone := fun h => absurd rfl h
  byteCount := Or.inr (Or.inl ⟨rfl, rfl, rfl⟩)
  addressValid := Or.inr ⟨rfl, rfl, rfl⟩

theorem twoByteResult_legal (target hi lo : Byte) : (twoByteResult target hi lo).Legal where
  errCode := by simp [twoByteResult]
  errorAlone := fun h => absurd rfl h
  byteCount := Or.inr (Or.inr ⟨rfl, rfl, rfl⟩)
  addressValid := Or.inr ⟨rfl, rfl, rfl⟩

/-- A result without bytes and without an error is legal. -/
theorem legal_of_no_bytes (o : Outputs) (he : o.err = some 0b00) (hnb : o.nb = none) (h0 : o.y0 = none) (h1 : o.y1 = none)
    (hao : o.ao = none) (hav : o.av = none) : o.Legal where
  errCode := by simp [he]
  errorAlone := fun h => absurd he h
  byteCount := Or.inl ⟨hnb, h0, h1⟩
  addressValid := Or.inl ⟨hao, hav, hnb⟩

/-! The bus primitives: what they leave alone. -/

variable (s : State)

@[simp] theorem busAnswer_cfg : (busAnswer s).2.cfg = s.cfg := by unfold busAnswer; split <;> rfl
@[simp] theorem busAnswer_req : (busAnswer s).2.req = s.req := by unfold busAnswer; split <;> rfl
@[simp] theorem busAnswer_out : (busAnswer s).2.out = s.out := by unfold busAnswer; split <;> rfl
@[simp] theorem busAnswer_phase : (busAnswer s).2.phase = s.phase := by unfold busAnswer; split <;> rfl
@[simp] theorem busAnswer_calls : (busAnswer s).2.calls = s.calls := by unfold busAnswer; split <;> rfl
@[simp] theorem busAnswer_results : (busAnswer s).2.results = s.results := by unfold busAnswer; split <;> rfl
@[simp] theorem busAnswer_trace : (busAnswer s).2.trace = s.trace := by unfold busAnswer; split <;> rfl
@[simp] theorem busAnswer_cursor : (busAnswer s).2.cursor = s.cursor := by unfold busAnswer; split <;> rfl
@[simp] theorem busAnswer_devBytes : (busAnswer s).2.devBytes = s.devBytes := by unfold busAnswer; split <;> rfl

@[simp] theorem deviceByte_cfg : (deviceByte s).2.cfg = s.cfg := by unfold deviceByte; split <;> rfl
@[simp] theorem deviceByte_req : (deviceByte s).2.req = s.req := by unfold deviceByte; split <;> rfl
@[simp] theorem deviceByte_out : (deviceByte s).2.out = s.out := by unfold deviceByte; split <;> rfl
@[simp] theorem deviceByte_phase : (deviceByte s).2.phase = s.phase := by unfold deviceByte; split <;> rfl
@[simp] theorem deviceByte_calls : (deviceByte s).2.calls = s.calls := by unfold deviceByte; split <;> rfl
@[simp] theorem deviceByte_results : (deviceByte s).2.results = s.results := by unfold deviceByte; split <;> rfl
@[simp] theorem deviceByte_trace : (deviceByte s).2.trace = s.trace := by unfold deviceByte; split <;> rfl
@[simp] theorem deviceByte_cursor : (deviceByte s).2.cursor = s.cursor := by unfold deviceByte; split <;> rfl
@[simp] theorem deviceByte_busReplies : (deviceByte s).2.busReplies = s.busReplies := by unfold deviceByte; split <;> rfl

theorem busAnswer_of_listed (a : Option Nat) (rest : List (Option Nat)) (h : s.busReplies = a :: rest) :
    busAnswer s = (a, { s with busReplies := rest }) := by
  unfold busAnswer
  split
  · next a' rest' h' => rw [h] at h'; cases h'; rfl
  · next h' => rw [h] at h'; cases h'

theorem deviceByte_of_listed (b : Byte) (rest : List Byte) (h : s.devBytes = b :: rest) :
    deviceByte s = (b, { s with devBytes := rest }) := by
  unfold deviceByte
  split
  · next b' rest' h' => rw [h] at h'; cases h'; rfl
  · next h' => rw [h] at h'; cases h'

/-! The bytes of a sequential read: as many as were asked for, and nothing but the device's input changes. -/

@[simp] theorem deviceBytes_length (n : Nat) : ∀ s, (deviceBytes n s).1.length = n := by
  induction n with
  | zero => intro s; rfl
  | succ n ih => intro s; simp [deviceBytes, ih]

@[simp] theorem deviceBytes_cfg (n : Nat) : ∀ s, (deviceBytes n s).2.cfg = s.cfg := by
  induction n with
  | zero => intro s; rfl
  | succ n ih => intro s; simp [deviceBytes, ih]
@[simp] theorem deviceBytes_req (n : Nat) : ∀ s, (deviceBytes n s).2.req = s.req := by
  induction n with
  | zero => intro s; rfl
  | succ n ih => intro s; simp [deviceBytes, ih]
@[simp] theorem deviceBytes_out (n : Nat) : ∀ s, (deviceBytes n s).2.out = s.out := by
  induction n with
  | zero => intro s; rfl
  | succ n ih => intro s; simp [deviceBytes, ih]
@[simp] theorem deviceBytes_phase (n : Nat) : ∀ s, (deviceBytes n s).2.phase = s.phase := by
  induction n with
  | zero => intro s; rfl
  | succ n ih => intro s; simp [deviceBytes, ih]
@[simp] theorem deviceBytes_calls (n : Nat) : ∀ s, (deviceBytes n s).2.calls = s.calls := by
  induction n with
  | zero => intro s; rfl
  | succ n ih => intro s; simp [deviceBytes, ih]
@[simp] theorem deviceBytes_results (n : Nat) : ∀ s, (deviceBytes n s).2.results = s.results := by
  induction n with
  | zero => intro s; rfl
  | succ n ih => intro s; simp [deviceBytes, ih]
@[simp] theorem deviceBytes_trace (n : Nat) : ∀ s, (deviceBytes n s).2.trace = s.trace := by
  induction n with
  | zero => intro s; rfl
  | succ n ih => intro s; simp [deviceBytes, ih]
@[simp] theorem deviceBytes_cursor (n : Nat) : ∀ s, (deviceBytes n s).2.cursor = s.cursor := by
  induction n with
  | zero => intro s; rfl
  | succ n ih => intro s; simp [deviceBytes, ih]
@[simp] theorem deviceBytes_busReplies (n : Nat) : ∀ s, (deviceBytes n s).2.busReplies = s.busReplies := by
  induction n with
  | zero => intro s; rfl
  | succ n ih => intro s; simp [deviceBytes, ih]

/-- Listed bytes are read in their order. -/
theorem deviceBytes_of_listed (bs rest : List Byte) :
    ∀ s : State, s.devBytes = bs ++ rest → deviceBytes bs.length s = (bs, { s with devBytes := rest }) := by
  induction bs with
  | nil => rintro s rfl; rfl
  | cons b bs ih =>
    intro s h
    have hb := deviceByte_of_listed s b (bs ++ rest) h
    simp [deviceBytes, hb, ih { s with devBytes := bs ++ rest } rfl]

/-! The bus primitives where the answers are listed. -/

theorem busWrite_of_listed (bytes : List Byte) (a : Option Nat) (rest : List (Option Nat)) (h : s.busReplies = a :: rest) :
    busWrite bytes s =
      (a, { s with busReplies := rest, cursor := addressedAfter a bytes.head?, trace := s.trace ++ [.write bytes a] }) := by
  simp only [busWrite, busAnswer_of_listed s a rest h]
  rfl

theorem busReadByte_of_listed (addr v : Byte) (rest : List (Option Nat)) (bytes : List Byte)
    (h : s.busReplies = none :: rest) (hv : s.devBytes = v :: bytes) :
    busReadByte addr s =
      (.ok v, { s with busReplies := rest, devBytes := bytes, cursor := some addr, trace := s.trace ++ [.readByte addr v] }) := by
  simp only [busReadByte, busAnswer_of_listed s none rest h, deviceByte, hv]
  rfl

/-- `readBytes(count)` gives the listed bytes, and the action says where it started (R51, R236). -/
theorem busReadBytes_of_listed (bs : List Byte) (rest : List (Option Nat)) (bytes : List Byte)
    (h : s.busReplies = none :: rest) (hv : s.devBytes = bs ++ bytes) :
    busReadBytes bs.length s =
      (.ok bs, { s with busReplies := rest, devBytes := bytes, trace := s.trace ++ [.readBytes s.cursor bs] }) := by
  simp only [busReadBytes, busAnswer_of_listed s none rest h]
  rw [deviceBytes_of_listed bs bytes { s with busReplies := rest } hv]
  rfl

/-- The bus answers alike whatever stands on the output ports. -/
theorem busAnswer_setOut_fst (o : Outputs) : (busAnswer (s.setOut o)).1 = (busAnswer s).1 := by
  unfold busAnswer State.setOut
  cases s.busReplies <;> rfl

@[simp] theorem busWrite_cfg (bytes : List Byte) : (busWrite bytes s).2.cfg = s.cfg := by simp [busWrite]
@[simp] theorem busWrite_req (bytes : List Byte) : (busWrite bytes s).2.req = s.req := by simp [busWrite]
@[simp] theorem busWrite_out (bytes : List Byte) : (busWrite bytes s).2.out = s.out := by simp [busWrite]
@[simp] theorem busWrite_phase (bytes : List Byte) : (busWrite bytes s).2.phase = s.phase := by simp [busWrite]
@[simp] theorem busWrite_calls (bytes : List Byte) : (busWrite bytes s).2.calls = s.calls := by simp [busWrite]
@[simp] theorem busWrite_results (bytes : List Byte) : (busWrite bytes s).2.results = s.results := by simp [busWrite]
@[simp] theorem busWrite_devBytes (bytes : List Byte) : (busWrite bytes s).2.devBytes = s.devBytes := by simp [busWrite]
@[simp] theorem busWrite_trace (bytes : List Byte) :
    (busWrite bytes s).2.trace = s.trace ++ [.write bytes (busAnswer s).1] := by simp [busWrite]
@[simp] theorem busWrite_cursor (bytes : List Byte) :
    (busWrite bytes s).2.cursor = addressedAfter (busAnswer s).1 bytes.head? := by simp [busWrite]
@[simp] theorem busWrite_fst (bytes : List Byte) : (busWrite bytes s).1 = (busAnswer s).1 := rfl

@[simp] theorem busReadByte_cfg (a : Byte) : (busReadByte a s).2.cfg = s.cfg := by
  unfold busReadByte; split <;> (next h => have hf := busAnswer_cfg s; rw [h] at hf; simpa using hf)
@[simp] theorem busReadBytes_cfg (n : Nat) : (busReadBytes n s).2.cfg = s.cfg := by
  unfold busReadBytes; split <;> (next h => have hf := busAnswer_cfg s; rw [h] at hf; simpa using hf)
@[simp] theorem busReadByte_req (a : Byte) : (busReadByte a s).2.req = s.req := by
  unfold busReadByte; split <;> (next h => have hf := busAnswer_req s; rw [h] at hf; simpa using hf)
@[simp] theorem busReadBytes_req (n : Nat) : (busReadBytes n s).2.req = s.req := by
  unfold busReadBytes; split <;> (next h => have hf := busAnswer_req s; rw [h] at hf; simpa using hf)
@[simp] theorem busReadByte_out (a : Byte) : (busReadByte a s).2.out = s.out := by
  unfold busReadByte; split <;> (next h => have hf := busAnswer_out s; rw [h] at hf; simpa using hf)
@[simp] theorem busReadBytes_out (n : Nat) : (busReadBytes n s).2.out = s.out := by
  unfold busReadBytes; split <;> (next h => have hf := busAnswer_out s; rw [h] at hf; simpa using hf)
@[simp] theorem busReadByte_phase (a : Byte) : (busReadByte a s).2.phase = s.phase := by
  unfold busReadByte; split <;> (next h => have hf := busAnswer_phase s; rw [h] at hf; simpa using hf)
@[simp] theorem busReadBytes_phase (n : Nat) : (busReadBytes n s).2.phase = s.phase := by
  unfold busReadBytes; split <;> (next h => have hf := busAnswer_phase s; rw [h] at hf; simpa using hf)
@[simp] theorem busReadByte_calls (a : Byte) : (busReadByte a s).2.calls = s.calls := by
  unfold busReadByte; split <;> (next h => have hf := busAnswer_calls s; rw [h] at hf; simpa using hf)
@[simp] theorem busReadBytes_calls (n : Nat) : (busReadBytes n s).2.calls = s.calls := by
  unfold busReadBytes; split <;> (next h => have hf := busAnswer_calls s; rw [h] at hf; simpa using hf)
@[simp] theorem busReadByte_results (a : Byte) : (busReadByte a s).2.results = s.results := by
  unfold busReadByte; split <;> (next h => have hf := busAnswer_results s; rw [h] at hf; simpa using hf)
@[simp] theorem busReadBytes_results (n : Nat) : (busReadBytes n s).2.results = s.results := by
  unfold busReadBytes; split <;> (next h => have hf := busAnswer_results s; rw [h] at hf; simpa using hf)

/-- A byte read either fails with the bus's error or gives a byte, and logs which. -/
theorem busReadByte_cases (a : Byte) :
    (∃ e, (busReadByte a s).1 = .error e ∧ (busReadByte a s).2.trace = s.trace ++ [.readByteFailed a e]) ∨
    (∃ b, (busReadByte a s).1 = .ok b ∧ (busReadByte a s).2.trace = s.trace ++ [.readByte a b]) := by
  unfold busReadByte
  split
  · next e t h => exact Or.inl ⟨e, rfl, by have hf := busAnswer_trace s; rw [h] at hf; simpa using hf⟩
  · next t h =>
    exact Or.inr ⟨(deviceByte t).1, rfl, by have hf := busAnswer_trace s; rw [h] at hf; simpa using hf⟩

/-- A sequential read either fails with the bus's error or gives as many bytes as were asked for, and logs which, with the register it
started from. -/
theorem busReadBytes_cases (n : Nat) :
    (∃ e, (busReadBytes n s).1 = .error e ∧ (busReadBytes n s).2.trace = s.trace ++ [.readBytesFailed s.cursor n e]) ∨
    (∃ bs, (busReadBytes n s).1 = .ok bs ∧ bs.length = n ∧
      (busReadBytes n s).2.trace = s.trace ++ [.readBytes s.cursor bs]) := by
  unfold busReadBytes
  split
  · next e t h =>
    have hf := busAnswer_trace s
    have hc := busAnswer_cursor s
    rw [h] at hf hc
    exact Or.inl ⟨e, rfl, by simp_all⟩
  · next t h =>
    have hf := busAnswer_trace s
    have hc := busAnswer_cursor s
    rw [h] at hf hc
    exact Or.inr ⟨(deviceBytes n t).1, rfl, by simp, by simp_all⟩

/-- Six bytes are a measurement block, and the block carries them (R55). -/
theorem measBlockOf_of_length (bs : List Byte) (h : bs.length = 6) : ∃ b, measBlockOf bs = some b ∧ b.bytes = bs := by
  match bs, h with
  | [r0, r1, r2, r3, r4, r5], _ => exact ⟨⟨r0, r1, r2, r3, r4, r5⟩, rfl, rfl⟩

@[simp] theorem measBlockOf_bytes (b : MeasBlock) : measBlockOf b.bytes = some b := rfl

end Sys2Proof.Machine
end

