-- ==== Sys2Proof/Laws/Exec.lean ====
section
/-! SUPPORT. What an operation of the block can do, said once: it drives legal output ports and changes nothing else, or its operand
value is refused. Later proofs cite these inversions and do not unfold exec. -/

namespace Sys2Proof.Machine

/-- The outputs of a driven result, with the frame: everything but the output ports stands. -/
def DrivesLegal (s : State) (r : Result) : Prop :=
  ∃ o : Outputs, r = .next (s.setOut o) ∧ o.Legal ∧ o.err.isSome

theorem drivesLegal_error (s : State) (code : BitVec 2) (h : code ≠ 0b11) : DrivesLegal s (raiseError code s) :=
  ⟨errorResult code, rfl, errorResult_legal code h, rfl⟩

theorem drivesLegal_byte (s : State) (target y : Byte) : DrivesLegal s (drive (Outputs.ofByte target y) s) :=
  ⟨byteResult target y, rfl, byteResult_legal target y, rfl⟩

theorem drivesLegal_twoBytes (s : State) (target : Byte) (v : BitVec 16) :
    DrivesLegal s (drive (Outputs.ofTwoBytes target v) s) :=
  ⟨Outputs.ofTwoBytes target v, rfl, by rw [ofTwoBytes_eq]; exact twoByteResult_legal _ _ _, rfl⟩

theorem drivesLegal_decoder (s : State) (io : BitVec 32) (fo : BitVec 4) (raw : Raw) :
    DrivesLegal s (drive (Outputs.ofDecoder io fo raw) s) :=
  ⟨decoderResult io fo raw, rfl, legal_of_no_bytes _ rfl rfl rfl rfl rfl rfl, rfl⟩

theorem drivesLegal_integer (s : State) (io : BitVec 32) : DrivesLegal s (drive (Outputs.ofInteger io) s) :=
  ⟨integerResult io, rfl, legal_of_no_bytes _ rfl rfl rfl rfl rfl rfl, rfl⟩

/-- Every operation drives legal outputs, or is refused. -/
theorem exec_cases (i : Instr) (s : State) : DrivesLegal s (exec i s) ∨ ∃ r, exec i s = .refused r := by
  cases i with
  | decQ16_4 b0 b1 b2 => exact .inl (drivesLegal_decoder s _ _ _)
  | decQ18_2 b0 b1 b2 => exact .inl (drivesLegal_decoder s _ _ _)
  | decQ8_4 b0 b1 => exact .inl (drivesLegal_decoder s _ _ _)
  | encOs os =>
    simp only [exec, execEncOs]
    split
    · exact .inl (drivesLegal_byte s _ _)
    · exact .inl (drivesLegal_error s _ (by decide))
  | encAlt alt => exact .inl (drivesLegal_byte s _ _)
  | encRst rst => exact .inl (drivesLegal_byte s _ _)
  | encSbyb active => exact .inl (drivesLegal_byte s _ _)
  | encEvent temp pres => exact .inl (drivesLegal_byte s _ _)
  | encCtrl1 os alt rst active =>
    simp only [exec, execEncCtrl1]
    split
    · exact .inl (drivesLegal_byte s _ _)
    · exact .inl (drivesLegal_error s _ (by decide))
  | decCtrl1 b => exact .inl ⟨ctrlResult _ _ _ _, rfl, legal_of_no_bytes _ rfl rfl rfl rfl rfl rfl, rfl⟩
  | decStatus b => exact .inl ⟨statusResult _ _ _, rfl, legal_of_no_bytes _ rfl rfl rfl rfl rfl rfl, rfl⟩
  | regWidth addr => exact .inl (drivesLegal_integer s _)
  | encBarIn pa =>
    simp only [exec, execEncBarIn]
    split
    · exact .inr ⟨_, rfl⟩
    · split
      · exact .inl (drivesLegal_twoBytes s _ _)
      · split
        · exact .inr ⟨_, rfl⟩
        · exact .inl (drivesLegal_twoBytes s _ _)
  | defSlp => exact .inl (drivesLegal_integer s _)
  | encOffH metres =>
    simp only [exec, execEncOffH]
    split
    · exact .inl (drivesLegal_byte s _ _)
    · exact .inr ⟨_, rfl⟩
  | encOffP pa =>
    simp only [exec, execEncOffP]
    split
    · exact .inl (drivesLegal_byte s _ _)
    · exact .inl (drivesLegal_error s _ (by decide))
  | encOffT celsius =>
    simp only [exec, execEncOffT]
    split
    · exact .inl (drivesLegal_byte s _ _)
    · exact .inl (drivesLegal_error s _ (by decide))

/-- The block as a whole: legal outputs and nothing else changed, or a refusal of the operation the request selects. -/
theorem evaluate_cases (s : State) : DrivesLegal s (evaluate s) ∨ ∃ r, evaluate s = .refused r := by
  unfold evaluate
  split
  · exact exec_cases _ s
  · exact .inl (drivesLegal_error s _ (by decide))

/-- A request that decodes is the operation it decodes to. -/
theorem evaluate_of_decode {s : State} {i : Instr} (h : decode s.cfg.wInt s.req = .ok i) : evaluate s = exec i s := by
  unfold evaluate
  rw [h]

/-- A step is the host's reaction to what the block answered. -/
theorem step_of_evaluate {s t : State} (h : evaluate s = .next t) : step s = .next (react t) := by
  unfold step
  rw [h]

/-- The inversion of a step: the block drove legal outputs, and the host reacted to them. -/
theorem step_next_cases {s u : State} (h : step s = .next u) :
    ∃ o : Outputs, evaluate s = .next (s.setOut o) ∧ o.Legal ∧ o.err.isSome ∧ u = react (s.setOut o) := by
  rcases evaluate_cases s with ⟨o, ho, hl, he⟩ | ⟨r, hr⟩
  · refine ⟨o, ho, hl, he, ?_⟩
    have hs := step_of_evaluate ho
    rw [hs] at h
    cases h
    rfl
  · unfold step at h
    rw [hr] at h
    cases h

end Sys2Proof.Machine
end

