-- ==== Sys2Proof/Laws/Codec.lean ====
section
/-! SUPPORT. The integer operand on its port, and the bit fields of the fixed-point words in numbers: the nibble, the 16-bit prefix, the raw word, and the fields of
DEC_Q18_2. -/

namespace Sys2Proof.Machine

/-- An integer that fits the port is read back from it (R73). -/
theorem intOperand_intPort (w : Nat) (i : Int) (h : fitsIntPort w i = true) : intOperand w (intPort w i) = i := by
  simp only [fitsIntPort, decide_eq_true_eq] at h
  have e : ((2 ^ w : Nat) : Int) = 2 ^ w := by simp
  simp only [intOperand, intPort, BitVec.ofNat_toNat, BitVec.setWidth_eq, BitVec.toInt_ofInt]
  rw [Int.bmod_eq_of_le] <;> omega

/-- What is read from a port fits it. -/
theorem fitsIntPort_intOperand (w : Nat) (x : IntPort) : fitsIntPort w (intOperand w x) = true := by
  have h1 := BitVec.two_mul_toInt_lt (x := BitVec.ofNat w x)
  have h2 := BitVec.le_two_mul_toInt (x := BitVec.ofNat w x)
  exact decide_eq_true ⟨h2, h1⟩

@[simp] theorem intOperand_intPort_intOperand (w : Nat) (x : IntPort) :
    intOperand w (intPort w (intOperand w x)) = intOperand w x :=
  intOperand_intPort w _ (fitsIntPort_intOperand w x)

/-- The wires that carry what was read are the wires it was read from. -/
theorem intPort_intOperand (w : Nat) (x : IntPort) : intPort w (intOperand w x) = x % 2 ^ w := by
  simp [intPort, intOperand]

theorem highNibble_toNat (b : Byte) : (highNibble b).toNat = b.toNat / 16 := by
  have := b.isLt
  simp [highNibble, BitVec.extractLsb'_toNat, Nat.shiftRight_eq_div_pow]
  omega

theorem prefix_toNat (b0 b1 : Byte) : (b0 ++ b1).toNat = 256 * b0.toNat + b1.toNat := by
  rw [BitVec.toNat_append, ← Nat.shiftLeft_add_eq_or_of_lt b1.isLt]
  simp only [Nat.shiftLeft_eq]
  omega

theorem rawWord_toNat (b0 b1 b2 : Byte) :
    (b0 ++ b1 ++ highNibble b2).toNat = 4096 * b0.toNat + 16 * b1.toNat + b2.toNat / 16 := by
  have h2 := (highNibble b2).isLt
  rw [BitVec.toNat_append, prefix_toNat, ← Nat.shiftLeft_add_eq_or_of_lt h2, highNibble_toNat]
  simp only [Nat.shiftLeft_eq]
  omega

theorem q18Integer_toNat (b0 b1 b2 : Byte) :
    (((b0 ++ b1 ++ highNibble b2).extractLsb' 2 18).setWidth 32).toNat =
      b0.toNat * 2 ^ 10 + b1.toNat * 2 ^ 2 + b2.toNat / 64 := by
  have := b0.isLt
  have := b1.isLt
  have := b2.isLt
  rw [BitVec.toNat_setWidth, BitVec.extractLsb'_toNat, rawWord_toNat, Nat.shiftRight_eq_div_pow]
  omega

theorem q18Fraction_toNat (b2 : Byte) : ((b2.extractLsb' 4 2).setWidth 4).toNat = b2.toNat / 16 % 4 := by
  have := b2.isLt
  rw [BitVec.toNat_setWidth, BitVec.extractLsb'_toNat, Nat.shiftRight_eq_div_pow]
  omega

end Sys2Proof.Machine
end

