-- ==== Sys2Proof/Laws/Driver.lean ====
section
/-! SUPPORT. What the host's shared moves change and leave alone: beginning and ending a call, the write of an encoder's bytes, one
turn of the poll, the read of the block. -/

namespace Sys2Proof.Machine

variable (s : State)

/-- Beginning the next call touches the phase, the input ports and the waiting calls alone. -/
theorem startNext_cases :
    (s.calls = [] ∧ startNext s = s) ∨ ∃ c cs, s.calls = c :: cs ∧ startNext s = startCall c (s.setCalls cs) := by
  unfold startNext
  split
  · next h => exact Or.inl ⟨h, rfl⟩
  · next c cs h => exact Or.inr ⟨c, cs, h, rfl⟩

@[simp] theorem startCall_cfg (c : Call) : (startCall c s).cfg = s.cfg := by cases c <;> rfl
@[simp] theorem startCall_out (c : Call) : (startCall c s).out = s.out := by cases c <;> rfl
@[simp] theorem startCall_calls (c : Call) : (startCall c s).calls = s.calls := by cases c <;> rfl
@[simp] theorem startCall_results (c : Call) : (startCall c s).results = s.results := by cases c <;> rfl
@[simp] theorem startCall_trace (c : Call) : (startCall c s).trace = s.trace := by cases c <;> rfl
@[simp] theorem startCall_busReplies (c : Call) : (startCall c s).busReplies = s.busReplies := by cases c <;> rfl
@[simp] theorem startCall_devBytes (c : Call) : (startCall c s).devBytes = s.devBytes := by cases c <;> rfl
@[simp] theorem startCall_freeCount (c : Call) : (startCall c s).freeCount = s.freeCount := by cases c <;> rfl
@[simp] theorem startNext_cfg : (startNext s).cfg = s.cfg := by unfold startNext; split <;> simp
@[simp] theorem startNext_out : (startNext s).out = s.out := by unfold startNext; split <;> simp
@[simp] theorem startNext_results : (startNext s).results = s.results := by unfold startNext; split <;> simp
@[simp] theorem startNext_trace : (startNext s).trace = s.trace := by unfold startNext; split <;> simp
@[simp] theorem startNext_busReplies : (startNext s).busReplies = s.busReplies := by unfold startNext; split <;> simp
@[simp] theorem startNext_devBytes : (startNext s).devBytes = s.devBytes := by unfold startNext; split <;> simp
@[simp] theorem startNext_freeCount : (startNext s).freeCount = s.freeCount := by unfold startNext; split <;> simp
@[simp] theorem complete_cfg (r : CallResult) : (complete r s).cfg = s.cfg := by simp [complete]
@[simp] theorem failCall_cfg (e : CallError) : (failCall e s).cfg = s.cfg := by simp [failCall]
@[simp] theorem complete_out (r : CallResult) : (complete r s).out = s.out := by simp [complete]
@[simp] theorem failCall_out (e : CallError) : (failCall e s).out = s.out := by simp [failCall]
@[simp] theorem complete_trace (r : CallResult) : (complete r s).trace = s.trace := by simp [complete]
@[simp] theorem failCall_trace (e : CallError) : (failCall e s).trace = s.trace := by simp [failCall]
@[simp] theorem complete_busReplies (r : CallResult) : (complete r s).busReplies = s.busReplies := by simp [complete]
@[simp] theorem failCall_busReplies (e : CallError) : (failCall e s).busReplies = s.busReplies := by simp [failCall]
@[simp] theorem complete_devBytes (r : CallResult) : (complete r s).devBytes = s.devBytes := by simp [complete]
@[simp] theorem failCall_devBytes (e : CallError) : (failCall e s).devBytes = s.devBytes := by simp [failCall]
@[simp] theorem complete_freeCount (r : CallResult) : (complete r s).freeCount = s.freeCount := by simp [complete]
@[simp] theorem failCall_freeCount (e : CallError) : (failCall e s).freeCount = s.freeCount := by simp [failCall]
@[simp] theorem complete_results (r : CallResult) : (complete r s).results = s.results ++ [r] := by simp [complete]
@[simp] theorem failCall_results (e : CallError) : (failCall e s).results = s.results ++ [.failed e] := by simp [failCall]

/-- The waiting calls after one of them may have begun: all of them, or all but the oldest. -/
theorem startNext_calls : (startNext s).calls = s.calls.tail := by
  unfold startNext
  split
  · next h => simp [h]
  · next h => simp [h]

/-! What an encoder's and a decoder's result say to the host. -/

@[simp] theorem encoded_byteResult (a y : Byte) : (byteResult a y).encoded = .ok [a, y] := rfl
@[simp] theorem encoded_twoByteResult (a hi lo : Byte) : (twoByteResult a hi lo).encoded = .ok [a, hi, lo] := rfl
@[simp] theorem encoded_errRange : (errorResult 0b01).encoded = .error .range := rfl
@[simp] theorem decoded_decoderResult (io : BitVec 32) (fo : BitVec 4) (raw : Raw) :
    (decoderResult io fo raw).decoded = .ok (io, fo) := rfl

/-- Writing an encoder's bytes: nothing to write, written, or a bus failure. -/
theorem writeEncoded_cases :
    (∃ e, s.out.encoded = .error e ∧ writeEncoded s = (.error e, s)) ∨
    (∃ bytes, s.out.encoded = .ok bytes ∧ (busAnswer s).1 = none ∧ writeEncoded s = (.ok (), (busWrite bytes s).2)) ∨
    (∃ bytes e, s.out.encoded = .ok bytes ∧ (busAnswer s).1 = some e ∧
      writeEncoded s = (.error (.bus e), (busWrite bytes s).2)) := by
  unfold writeEncoded
  split
  · next e h => exact Or.inl ⟨e, h, rfl⟩
  · next bytes h =>
    split
    · next t hw =>
      refine Or.inr (Or.inl ⟨bytes, h, ?_, by rw [hw]⟩)
      rw [← busWrite_fst s bytes, hw]
    · next e t hw =>
      refine Or.inr (Or.inr ⟨bytes, e, h, ?_, by rw [hw]⟩)
      rw [← busWrite_fst s bytes, hw]

theorem writeEncoded_ok (bytes : List Byte) (h : s.out.encoded = .ok bytes) (ha : (busAnswer s).1 = none) :
    writeEncoded s = (.ok (), (busWrite bytes s).2) := by
  rcases writeEncoded_cases s with ⟨e, h', _⟩ | ⟨b, h', _, hw⟩ | ⟨b, e, _, h', _⟩
  · rw [h] at h'; cases h'
  · rw [h] at h'; cases h'; exact hw
  · rw [ha] at h'; cases h'

theorem writeEncoded_busError (bytes : List Byte) (e : Nat) (h : s.out.encoded = .ok bytes) (ha : (busAnswer s).1 = some e) :
    writeEncoded s = (.error (.bus e), (busWrite bytes s).2) := by
  rcases writeEncoded_cases s with ⟨e', h', _⟩ | ⟨b, _, h', _⟩ | ⟨b, e', h', he, hw⟩
  · rw [h] at h'; cases h'
  · rw [ha] at h'; cases h'
  · rw [h] at h'; cases h'; rw [ha] at he; cases he; exact hw

theorem writeEncoded_error (e : CallError) (h : s.out.encoded = .error e) : writeEncoded s = (.error e, s) := by
  rcases writeEncoded_cases s with ⟨e', h', hw⟩ | ⟨b, h', _⟩ | ⟨b, e', h', _⟩
  · rw [h] at h'; cases h'; exact hw
  · rw [h] at h'; cases h'
  · rw [h] at h'; cases h'

/-- One turn of the poll: a failed read ends the call; else the byte is put to DEC_STATUS. -/
theorem pollStatus_cases (mode : PressureMode) (reads : Nat) :
    (∃ e t, t = (busReadByte 0x00 (s.logEvent (.sleep s.cfg.pollInterval))).2 ∧
      t.trace = s.trace ++ [.sleep s.cfg.pollInterval, .readByteFailed 0x00 e] ∧
      pollStatus mode reads s = failCall (.bus e) t) ∨
    (∃ v t, t = (busReadByte 0x00 (s.logEvent (.sleep s.cfg.pollInterval))).2 ∧
      t.trace = s.trace ++ [.sleep s.cfg.pollInterval, .readByte 0x00 v] ∧
      pollStatus mode reads s = t.present (.polling mode (reads + 1)) (.decStatus v)) := by
  have hc := busReadByte_cases (s.logEvent (.sleep s.cfg.pollInterval)) 0x00
  unfold pollStatus
  simp only [addrOf]
  split
  · next e t h =>
    rw [h] at hc
    rcases hc with ⟨e', he, ht⟩ | ⟨b, hb, _⟩
    · cases he
      exact Or.inl ⟨e, t, by rw [h], by simpa using ht, rfl⟩
    · cases hb
  · next v t h =>
    rw [h] at hc
    rcases hc with ⟨e', he, _⟩ | ⟨b, hb, ht⟩
    · cases he
    · cases hb
      exact Or.inr ⟨v, t, by rw [h], by simpa using ht, rfl⟩

theorem pollStatus_of_listed (mode : PressureMode) (reads : Nat) (v : Byte) (rest : List (Option Nat)) (bytes : List Byte)
    (h : s.busReplies = none :: rest) (hv : s.devBytes = v :: bytes) :
    pollStatus mode reads s =
      { s with busReplies := rest, devBytes := bytes, phase := .polling mode (reads + 1), cursor := some 0x00,
               req := encode s.cfg.wInt (.decStatus v),
               trace := s.trace ++ [.sleep s.cfg.pollInterval, .readByte 0x00 v] } := by
  unfold pollStatus
  rw [busReadByte_of_listed (s.logEvent (.sleep s.cfg.pollInterval)) (addrOf .status) v rest bytes h hv]
  simp [State.present, State.logEvent, addrOf]

theorem readMeasurement_of_listed (mode : PressureMode) (b : MeasBlock) (rest : List (Option Nat))
    (bytes : List Byte) (h : s.busReplies = none :: none :: rest) (hv : s.devBytes = b.bytes ++ bytes) :
    readMeasurement mode s =
      { s with busReplies := rest, devBytes := bytes, phase := .convertMain mode b, cursor := some 0x00,
               req := encode s.cfg.wInt (mode.decoder b),
               trace := s.trace ++ [.write [0x00] none, .readBytes (some 0x00) b.bytes] } := by
  unfold readMeasurement
  rw [busWrite_of_listed s [addrOf .status] none (none :: rest) h]
  simp only
  have hr := busReadBytes_of_listed
    ({ s with busReplies := none :: rest, cursor := some 0x00, trace := s.trace ++ [.write [0x00] none] } : State)
    b.bytes rest bytes rfl hv
  rw [show b.bytes.length = 6 from rfl] at hr
  simp only [addrOf, addressedAfter, List.head?_cons]
  rw [hr]
  simp [State.present]

/-- The read of the measurement block: a failure at the cursor write, a failure at the read, or the block. -/
theorem readMeasurement_cases (mode : PressureMode) :
    (∃ e, (busAnswer s).1 = some e ∧ readMeasurement mode s = failCall (.bus e) (busWrite [0x00] s).2) ∨
    (∃ e t, t = (busReadBytes 6 (busWrite [0x00] s).2).2 ∧ (busAnswer s).1 = none ∧
      t.trace = s.trace ++ [.write [0x00] none, .readBytesFailed (some 0x00) 6 e] ∧
      readMeasurement mode s = failCall (.bus e) t) ∨
    (∃ b t, t = (busReadBytes 6 (busWrite [0x00] s).2).2 ∧ (busAnswer s).1 = none ∧
      t.trace = s.trace ++ [.write [0x00] none, .readBytes (some 0x00) b.bytes] ∧
      readMeasurement mode s = t.present (.convertMain mode b) (mode.decoder b)) := by
  have hc := busReadBytes_cases (busWrite [0x00] s).2 6
  unfold readMeasurement
  simp only [addrOf]
  split
  · next e t h =>
    refine Or.inl ⟨e, ?_, by rw [h]⟩
    rw [← busWrite_fst s [0x00], h]
  · next t h =>
    have ha : (busAnswer s).1 = none := by rw [← busWrite_fst s [0x00], h]
    rw [busWrite_trace, busWrite_cursor, ha, h] at hc
    simp only [addressedAfter, List.head?_cons, List.append_assoc, List.cons_append, List.nil_append] at hc
    split
    · next e u hr =>
      rw [hr] at hc
      rcases hc with ⟨e', he, ht⟩ | ⟨b, hb, _⟩
      · cases he
        exact Or.inr (Or.inl ⟨e, u, by rw [h, hr], ha, ht, rfl⟩)
      · cases hb
    · next bs u hr =>
      rw [hr] at hc
      rcases hc with ⟨e', he, _⟩ | ⟨bs', hb, hl, ht⟩
      · cases he
      · cases hb
        obtain ⟨b, hm, hbs⟩ := measBlockOf_of_length bs hl
        rw [← hbs] at ht
        exact Or.inr (Or.inr ⟨b, u, by rw [h, hr], ha, ht, by simp only [hm]⟩)

/-! The host never touches the output ports or a parameter. -/

@[simp] theorem writeEncoded_cfg : (writeEncoded s).2.cfg = s.cfg := by
  rcases writeEncoded_cases s with ⟨_, _, hw⟩ | ⟨_, _, _, hw⟩ | ⟨_, _, _, _, hw⟩ <;> simp [hw]

@[simp] theorem pollStatus_cfg (mode : PressureMode) (reads : Nat) : (pollStatus mode reads s).cfg = s.cfg := by
  rcases pollStatus_cases s mode reads with ⟨_, _, ht, _, hp⟩ | ⟨_, _, ht, _, hp⟩ <;> simp [hp, ht]

@[simp] theorem readMeasurement_cfg (mode : PressureMode) : (readMeasurement mode s).cfg = s.cfg := by
  rcases readMeasurement_cases s mode with ⟨_, _, hp⟩ | ⟨_, _, ht, _, _, hp⟩ | ⟨_, _, ht, _, _, hp⟩
  · simp [hp]
  · simp [hp, ht]
  · simp [hp, ht]

@[simp] theorem finishWrite_cfg : (finishWrite s).cfg = s.cfg := by
  have hf := writeEncoded_cfg s
  unfold finishWrite
  split <;> (next hw => rw [hw] at hf; simpa using hf)

@[simp] theorem react_cfg : (react s).cfg = s.cfg := by
  have hf := writeEncoded_cfg s
  cases hp : s.phase <;> simp only [react, hp] <;> (try split) <;> (try split) <;> simp_all

@[simp] theorem writeEncoded_out : (writeEncoded s).2.out = s.out := by
  rcases writeEncoded_cases s with ⟨_, _, hw⟩ | ⟨_, _, _, hw⟩ | ⟨_, _, _, _, hw⟩ <;> simp [hw]

@[simp] theorem pollStatus_out (mode : PressureMode) (reads : Nat) : (pollStatus mode reads s).out = s.out := by
  rcases pollStatus_cases s mode reads with ⟨_, _, ht, _, hp⟩ | ⟨_, _, ht, _, hp⟩ <;> simp [hp, ht]

@[simp] theorem readMeasurement_out (mode : PressureMode) : (readMeasurement mode s).out = s.out := by
  rcases readMeasurement_cases s mode with ⟨_, _, hp⟩ | ⟨_, _, ht, _, _, hp⟩ | ⟨_, _, ht, _, _, hp⟩
  · simp [hp]
  · simp [hp, ht]
  · simp [hp, ht]

@[simp] theorem finishWrite_out : (finishWrite s).out = s.out := by
  have hf := writeEncoded_out s
  unfold finishWrite
  split <;> (next hw => rw [hw] at hf; simpa using hf)

@[simp] theorem react_out : (react s).out = s.out := by
  have hf := writeEncoded_out s
  cases hp : s.phase <;> simp only [react, hp] <;> (try split) <;> (try split) <;> simp_all

end Sys2Proof.Machine
end

