-- ==== Sys2Proof/Laws/PerInstr.lean ====
section
/-! SUPPORT. The statements made instruction by instruction: family TableRow says that an instruction's encoding is the row of R71's
table its mnemonic names. -/

namespace Sys2Proof.Laws.TableRow

/-- The opcode table has a row with the instruction's mnemonic, and that row's pattern is the encoded `OP` (R71). -/
def Statement (i : Instr) : Prop := ∀ w : Nat, ⟨i.mnemonic, (encode w i).op⟩ ∈ opcodeTable

theorem decQ16_4 (b0 b1 b2 : Byte) : Statement (.decQ16_4 b0 b1 b2) := fun _ => List.mem_of_getElem? (i := 0) rfl
theorem decQ18_2 (b0 b1 b2 : Byte) : Statement (.decQ18_2 b0 b1 b2) := fun _ => List.mem_of_getElem? (i := 1) rfl
theorem decQ8_4 (b0 b1 : Byte) : Statement (.decQ8_4 b0 b1) := fun _ => List.mem_of_getElem? (i := 2) rfl
theorem encOs (os : Int) : Statement (.encOs os) := fun _ => List.mem_of_getElem? (i := 3) rfl
theorem encAlt (alt : Bool) : Statement (.encAlt alt) := fun _ => List.mem_of_getElem? (i := 4) rfl
theorem encRst (rst : Bool) : Statement (.encRst rst) := fun _ => List.mem_of_getElem? (i := 5) rfl
theorem encSbyb (active : Bool) : Statement (.encSbyb active) := fun _ => List.mem_of_getElem? (i := 6) rfl
theorem encEvent (temp pres : Bool) : Statement (.encEvent temp pres) := fun _ => List.mem_of_getElem? (i := 7) rfl
theorem encCtrl1 (os : Int) (alt rst active : Bool) : Statement (.encCtrl1 os alt rst active) := fun _ => List.mem_of_getElem? (i := 8) rfl
theorem decCtrl1 (b : Byte) : Statement (.decCtrl1 b) := fun _ => List.mem_of_getElem? (i := 9) rfl
theorem decStatus (b : Byte) : Statement (.decStatus b) := fun _ => List.mem_of_getElem? (i := 10) rfl
theorem regWidth (addr : Byte) : Statement (.regWidth addr) := fun _ => List.mem_of_getElem? (i := 11) rfl
theorem encBarIn (pa : Int) : Statement (.encBarIn pa) := fun _ => List.mem_of_getElem? (i := 12) rfl
theorem defSlp : Statement (.defSlp) := fun _ => List.mem_of_getElem? (i := 13) rfl
theorem encOffH (metres : Int) : Statement (.encOffH metres) := fun _ => List.mem_of_getElem? (i := 14) rfl
theorem encOffP (pa : Int) : Statement (.encOffP pa) := fun _ => List.mem_of_getElem? (i := 15) rfl
theorem encOffT (celsius : Rat) : Statement (.encOffT celsius) := fun _ => List.mem_of_getElem? (i := 16) rfl

end Sys2Proof.Laws.TableRow
end

