-- ==== Sys2Proof/Tests/Slice0.lean ====
section
/-! SUPPORT. Tests, each on fixed values taken from the spec (95_test_vectors.md, the examples of the rules), and a named witness for the
hypotheses of every statement of Obligations.lean. -/

namespace Sys2Proof.Tests

open Sys2Proof.Machine

/-- The output ports an outcome leaves. -/
def outputsOf (r : Result) : Option Outputs :=
  match r with
  | .next t => some t.out
  | .fault _ => none
  | .refused _ => none

/-- The output ports of one operation, run at reset under the default parameters. -/
def ran (i : Instr) : Option Outputs := outputsOf (exec i State.reset)

/-- The same under other parameters. -/
def ranUnder (c : Config) (i : Instr) : Option Outputs := outputsOf (exec i { State.reset with cfg := c })

/-- A state with a phase of the host and an operation on the ports, and the bus's next answers. -/
def hostAt (ph : Phase) (i : Instr) (replies : List (Option Nat)) (bytes : List Byte) : State :=
  { State.reset with phase := ph, req := encode 32 i, busReplies := replies, devBytes := bytes }

/-! WellFormed refuses an integer that does not fit `IA`, in each constructor that has one (D6), and admits the ends. -/

theorem test_wf_encOs : (Instr.encOs 2147483648).wf 32 = false ∧ (Instr.encOs 2147483647).wf 32 = true := by decide
theorem test_wf_encCtrl1 : (Instr.encCtrl1 (-2147483649) true true true).wf 32 = false := by decide
theorem test_wf_encBarIn : (Instr.encBarIn 4294967295).wf 32 = false ∧ (Instr.encBarIn (-2147483648)).wf 32 = true := by decide
theorem test_wf_encOffH : (Instr.encOffH (-2147483649)).wf 32 = false := by decide
theorem test_wf_encOffP : (Instr.encOffP 2147483648).wf 32 = false ∧ (Instr.encOffP 131072).wf 18 = false ∧
    (Instr.encOffP 131071).wf 18 = true := by decide

/-! Decoding: every operation's code written out bit by bit from R71, with a value on each port it names. -/

/-- A request with distinct values on every port. -/
def ports (op : BitVec 5) : Request :=
  { op := op, b0 := 0x81, b1 := 0x42, b2 := 0x24, ia := 0xFFFFFE00, qa := mkRat (-3) 2, fa := true, fb := false, fc := true }

def decoded (op : BitVec 5) : Option Instr := (decode 32 (ports op)).toOption

theorem test_decode_DEC_Q16_4 : decoded 0b00000 = some (.decQ16_4 0x81 0x42 0x24) := by decide
theorem test_decode_DEC_Q18_2 : decoded 0b00001 = some (.decQ18_2 0x81 0x42 0x24) := by decide
theorem test_decode_DEC_Q8_4 : decoded 0b00010 = some (.decQ8_4 0x81 0x42) := by decide
theorem test_decode_ENC_OS : decoded 0b00011 = some (.encOs (-512)) := by decide
theorem test_decode_ENC_ALT : decoded 0b00100 = some (.encAlt true) := by decide
theorem test_decode_ENC_RST : decoded 0b00101 = some (.encRst true) := by decide
theorem test_decode_ENC_SBYB : decoded 0b00110 = some (.encSbyb true) := by decide
theorem test_decode_ENC_EVENT : decoded 0b00111 = some (.encEvent true false) := by decide
theorem test_decode_ENC_CTRL1 : decoded 0b01000 = some (.encCtrl1 (-512) true false true) := by decide
theorem test_decode_DEC_CTRL1 : decoded 0b01001 = some (.decCtrl1 0x81) := by decide
theorem test_decode_DEC_STATUS : decoded 0b01010 = some (.decStatus 0x81) := by decide
theorem test_decode_REG_WIDTH : decoded 0b01011 = some (.regWidth 0x81) := by decide
theorem test_decode_ENC_BAR_IN : decoded 0b01100 = some (.encBarIn (-512)) := by decide
theorem test_decode_DEF_SLP : decoded 0b01101 = some .defSlp := by decide
theorem test_decode_ENC_OFF_H : decoded 0b01110 = some (.encOffH (-512)) := by decide
theorem test_decode_ENC_OFF_P : decoded 0b01111 = some (.encOffP (-512)) := by decide
theorem test_decode_ENC_OFF_T : decoded 0b10000 = some (.encOffT (mkRat (-3) 2)) := by decide
/-- `W_INT` (R6): the same wires of a port of 18 bits, the narrowest D6 lets it be, are another integer. -/
theorem test_decode_W_INT :
    (decode 18 (ports 0b00011)).toOption = some (.encOs (-512)) ∧
    (decode 18 { ports 0b00011 with ia := 0x20007 }).toOption = some (.encOs (-131065)) ∧
    (decode 32 { ports 0b00011 with ia := 0x20007 }).toOption = some (.encOs 131079) := by decide
theorem test_decode_reserved : ∀ n ∈ List.range 15, decoded (BitVec.ofNat 5 (0x11 + n)) = none := by decide

theorem test_table_rows_do_not_overlap : opcodeTable.Pairwise (fun r q => r.pattern ≠ q.pattern ∧ r.mnemonic ≠ q.mnemonic) := by
  decide

/-! Vectors of L1 and L2. -/

theorem test_DEC_Q16_4 :
    ran (.decQ16_4 0xFF 0x38 0x80) = some (decoderResult 0xFFFFFF38 8 0xFF388) ∧
    ran (.decQ16_4 0x12 0x34 0x5F) = some (decoderResult 0x00001234 5 0x12345) ∧
    ran (.decQ16_4 0x7F 0xFF 0xF0) = some (decoderResult 0x00007FFF 15 0x7FFFF) := by decide
theorem test_DEC_Q18_2 :
    ran (.decQ18_2 0x01 0x90 0x30) = some (decoderResult 0x00000640 3 0x01903) ∧
    ran (.decQ18_2 0x62 0xF3 0xA0) = some (decoderResult 0x00018BCE 2 0x62F3A) ∧
    ran (.decQ18_2 0xFF 0xFF 0xFF) = some (decoderResult 0x0003FFFF 3 0xFFFFF) := by decide
theorem test_DEC_Q8_4 :
    ran (.decQ8_4 0xF6 0x40) = some (decoderResult 0xFFFFFFF6 4 0x00F64) ∧
    ran (.decQ8_4 0x19 0x0F) = some (decoderResult 0x00000019 0 0x00190) ∧
    ran (.decQ8_4 0x7F 0xF0) = some (decoderResult 0x0000007F 15 0x007FF) := by decide
theorem test_values :
    signedValue 0xFFFFFFFF 8 = mkRat (-1) 2 ∧ signedValue 0x0000012C 4 = mkRat 30025 100 ∧
    unsignedValue 0x00000640 3 = mkRat 160075 100 := by decide
theorem test_ENC_OS :
    ran (.encOs 5) = some (byteResult 0x26 0x28) ∧ ran (.encOs 7) = some (byteResult 0x26 0x38) ∧
    ran (.encOs 8) = some (errorResult 0b01) ∧ ran (.encOs (-1)) = some (errorResult 0b01) := by decide
theorem test_ENC_ALT : ran (.encAlt true) = some (byteResult 0x26 0x80) ∧ ran (.encAlt false) = some (byteResult 0x26 0x00) := by decide
theorem test_ENC_RST : ran (.encRst true) = some (byteResult 0x26 0x04) ∧ ran (.encRst false) = some (byteResult 0x26 0x00) := by decide
theorem test_ENC_SBYB : ran (.encSbyb true) = some (byteResult 0x26 0x01) ∧ ran (.encSbyb false) = some (byteResult 0x26 0x00) := by decide
theorem test_ENC_EVENT :
    ran (.encEvent true false) = some (byteResult 0x13 0x05) ∧ ran (.encEvent false true) = some (byteResult 0x13 0x06) := by decide
theorem test_ENC_CTRL1 :
    ran (.encCtrl1 3 true false true) = some (byteResult 0x26 0x99) ∧ ran (.encCtrl1 0 false true false) = some (byteResult 0x26 0x04) ∧
    ran (.encCtrl1 7 true true true) = some (byteResult 0x26 0xBD) ∧ ran (.encCtrl1 8 true true true) = some (errorResult 0b01) := by decide
theorem test_DEC_CTRL1 :
    ran (.decCtrl1 0x99) = some (ctrlResult 3 true false true) ∧ ran (.decCtrl1 0x42) = some (ctrlResult 0 false false false) ∧
    ran (.decCtrl1 0x04) = some (ctrlResult 0 false true false) := by decide
theorem test_DEC_STATUS :
    ran (.decStatus 0x0C) = some (statusResult true true false) ∧ ran (.decStatus 0x02) = some (statusResult false false true) ∧
    ran (.decStatus 0xF1) = some (statusResult false false false) := by decide
theorem test_REG_WIDTH :
    ran (.regWidth 0x01) = some (integerResult 3) ∧ ran (.regWidth 0x02) = some (integerResult 0) ∧
    ran (.regWidth 0x1E) = some (integerResult 2) ∧ ran (.regWidth 0x2D) = some (integerResult 1) ∧
    ran (.regWidth 0x20) = some (integerResult 0) ∧ ran (.regWidth 0xFF) = some (integerResult 0) := by decide
theorem test_register_map : regMap.length = 31 ∧ (∀ e ∈ regMap, addrOf e.name = e.addr) ∧
    regMap.map (fun e => (e.addr.toNat, e.width)) = registerMapRows := by decide
theorem test_ENC_BAR_IN :
    ran (.encBarIn 101326) = some (twoByteResult 0x14 0xC5 0xE7) ∧ ran (.encBarIn 131071) = some (twoByteResult 0x14 0xFF 0xFF) ∧
    ran (.encBarIn 131072) = none ∧ ran (.encBarIn (-1)) = none := by decide
theorem test_ENC_BAR_IN_wrap :
    ranUnder { barInOverflow := .wrap } (.encBarIn 131074) = some (twoByteResult 0x14 0x00 0x01) ∧
    ranUnder { barInOverflow := .wrap } (.encBarIn (-1)) = none := by decide
theorem test_DEF_SLP : ran .defSlp = some (integerResult 0x00018BCE) := by decide
theorem test_ENC_OFF_H :
    ran (.encOffH (-128)) = some (byteResult 0x2D 0x80) ∧ ran (.encOffH 127) = some (byteResult 0x2D 0x7F) ∧
    ran (.encOffH 128) = none ∧ ran (.encOffH (-129)) = none := by decide
theorem test_ENC_OFF_P :
    ran (.encOffP 508) = some (byteResult 0x2B 0x7F) ∧ ran (.encOffP (-5)) = some (byteResult 0x2B 0xFF) ∧
    ran (.encOffP (-511)) = some (byteResult 0x2B 0x81) ∧ ran (.encOffP 509) = some (errorResult 0b01) := by decide
theorem test_ENC_OFF_P_floor :
    ranUnder { presOffRound := .floor } (.encOffP (-5)) = some (byteResult 0x2B 0xFE) ∧
    ranUnder { presOffRound := .floor } (.encOffP (-511)) = some (byteResult 0x2B 0x80) := by decide
theorem test_ENC_OFF_T :
    ran (.encOffT (mkRat 127 16)) = some (byteResult 0x2C 0x7F) ∧ ran (.encOffT (mkRat (-1) 10)) = some (byteResult 0x2C 0xFF) ∧
    ran (.encOffT (mkRat (-1) 32)) = some (byteResult 0x2C 0x00) ∧ ran (.encOffT (mkRat 794 100)) = some (errorResult 0b01) ∧
    ran (.encOffT (mkRat (-129) 16)) = some (errorResult 0b01) := by decide
theorem test_ENC_OFF_T_parameters :
    ranUnder { tempOffRound := .floor } (.encOffT (mkRat (-1) 32)) = some (byteResult 0x2C 0xFF) ∧
    ranUnder { tempOffRound := .nearest } (.encOffT (mkRat 1 32)) = some (byteResult 0x2C 0x01) ∧
    ranUnder { tempOffRound := .nearest } (.encOffT (mkRat (-1) 32)) = some (byteResult 0x2C 0xFF) ∧
    ranUnder { tempOffsetTarget := .offPres } (.encOffT (-8)) = some (byteResult 0x2B 0x80) := by decide

/-- R74: a reserved code drives `E_ILLEGAL_OP` and nothing else. -/
theorem test_reserved_op : outputsOf (evaluate (State.reset.withFetchWord 8 0x15)) = some (errorResult 0b10) := by decide

/-! One step of the host, in P1, P3 and P4 of L3. -/

/-- The trace and the results after one step. -/
def stepped (s : State) : Option (List BusEvent × List CallResult) :=
  match step s with
  | .next t => some (t.trace, t.results)
  | .fault _ => none
  | .refused _ => none

theorem test_P1_first_write :
    stepped (hostAt (.configMode 7 .barometer) (.encCtrl1 7 false false false) [none] []) = some ([.write [0x26, 0x38] none], []) := by
  decide
theorem test_P1_block_read :
    stepped (hostAt (.polling .barometer 3) (.decStatus 0x0C) [none, none] [0x0C, 0x01, 0x90, 0x30, 0x16, 0x40]) =
      some ([.write [0x00] none, .readBytes (some 0x00) [0x0C, 0x01, 0x90, 0x30, 0x16, 0x40]], []) := by decide
theorem test_P1_result :
    stepped (hostAt (.convertTemp .barometer ⟨0x0C, 0x01, 0x90, 0x30, 0x16, 0x40⟩ (mkRat 160075 100)) (.decQ8_4 0x16 0x40) [] []) =
      some ([], [.measured .barometer (mkRat 160075 100) (mkRat 2225 100)]) := by decide
theorem test_P3_sea_level :
    stepped (hostAt (.settingSeaLevel 101326) (.encBarIn 101326) [none] []) = some ([.write [0x14, 0xC5, 0xE7] none], [.written]) := by
  decide
theorem test_P3_failed_offset :
    stepped (hostAt (.compensatingPressure 509) (.encOffP 509) [] []) = some ([], [.failed .range]) := by decide
theorem test_P4_reset_failure_suppressed :
    stepped (hostAt .resetting (.encRst true) [some 5] []) = some ([.write [0x26, 0x04] (some 5)], [.written]) := by decide

/-! The assembler (R76). -/

theorem test_asm :
    (assemble 32 "ENC_CTRL1 3, 1, 0, 1   ; P2 step 3").toOption = some (.encCtrl1 3 true false true) ∧
    (assemble 32 "DEC_Q16_4  0x01, 0x2C, 64").toOption = some (.decQ16_4 0x01 0x2C 0x40) ∧
    (assemble 32 "DEF_SLP").toOption = some .defSlp ∧ (assemble 32 "ENC_OFF_P -512").toOption = some (.encOffP (-512)) := by decide
theorem test_asm_celsius :
    (assemble 32 "ENC_OFF_T 7.9375").toOption = some (.encOffT (mkRat 127 16)) ∧
    (assemble 32 "ENC_OFF_T -1/32").toOption = some (.encOffT (mkRat (-1) 32)) := by decide
theorem test_asm_rejects :
    (assemble 32 "DEC_CTRL1 256").toOption = none ∧ (assemble 32 "ENC_ALT 2").toOption = none ∧ (assemble 32 "NOP").toOption = none ∧
    (assemble 32 "ENC_OS").toOption = none ∧ (assemble 32 "; a comment").toOption = none := by decide

/-! Witnesses: for each statement with hypotheses, a state and operands that meet them all. -/

theorem witness_StepKeepsInvariant :
    (hostAt (.polling .altimeter 1) (.decStatus 0x00) [] []).Inv ∧
    ∃ t, step (hostAt (.polling .altimeter 1) (.decStatus 0x00) [] []) = .next t :=
  ⟨⟨⟨by decide, fun _ => rfl, Or.inl ⟨rfl, rfl, rfl⟩, Or.inl ⟨rfl, rfl, rfl⟩⟩,
    ⟨rfl, by decide, fun m h => by simp [hostAt, State.reset] at h⟩, by simp [hostAt, State.reset]⟩, ⟨_, rfl⟩⟩

theorem witness_DecodeOfEncode : (Instr.encOs (-2147483648)).WellFormed 32 ∧ (Instr.encOffP 2147483647).WellFormed 32 := by decide

theorem witness_EncodeOfDecodeKeepsReadPorts : decode 32 (ports 0x08) = .ok (.encCtrl1 (-512) true false true) := rfl

theorem witness_StepRunsDecodedInstruction :
    (decode 32 (encode 32 (.encAlt true)) = .ok (.encAlt true) ∧ ∃ t, exec (.encAlt true) State.reset = .next t) ∧
    (decode 32 (encode 32 (.encOffH 128)) = .ok (.encOffH 128) ∧
      exec (.encOffH 128) State.reset = .refused .altitudeOffsetOutsideInt8) ∧
    decode 32 (ports 0x11) = .error (.reservedOp 0x11) :=
  ⟨⟨rfl, _, rfl⟩, ⟨rfl, rfl⟩, rfl⟩

theorem witness_OpAloneSelectsOneRow :
    (ports 0x10).op = (encode 32 (.encOffT 0)).op ∧ decode 32 (ports 0x10) = .ok (.encOffT (mkRat (-3) 2)) ∧
    decode 32 (encode 32 (.encOffT 0)) = .ok (.encOffT 0) :=
  ⟨rfl, rfl, rfl⟩

theorem witness_ReservedOpDrivesIllegalOp :
    (0x11 ≤ (ports 0x11).op.toNat ∧ (ports 0x11).op.toNat ≤ 0x1F) ∧ 0x11 ≤ (ports 0x1F).op.toNat ∧ (ports 0x1F).op.toNat ≤ 0x1F := by
  decide

/-- The hypothesis of `Selects`, at every code of R71: a state with that code on the ports. -/
theorem witness_Selects : ∀ n ∈ List.range 17, ({ State.reset with req := ports (BitVec.ofNat 5 n) } : State).req.op = BitVec.ofNat 5 n := by
  decide

theorem witness_DecoderRanges :
    (∃ t, exec (.decQ16_4 0x80 0x00 0xFF) State.reset = .next t) ∧ (∃ t, exec (.decQ18_2 0xFF 0xFF 0xFF) State.reset = .next t) ∧
    (∃ t, exec (.decQ8_4 0x80 0xFF) State.reset = .next t) ∧ ((-32768 : Int) ≤ -32768 ∧ (-32768 : Int) ≤ 32767) ∧ (15 : Nat) ≤ 15 :=
  ⟨⟨_, rfl⟩, ⟨_, rfl⟩, ⟨_, rfl⟩, by decide, by decide⟩

theorem witness_LowNibbleNeverRead : (0xF0 : Byte).toNat / 16 = (0xFF : Byte).toNat / 16 ∧ (0xF0 : Byte) ≠ 0xFF := by decide

/-- EncOsResult, EncCtrl1Result, Ctrl1IsOrOfFields, Ctrl1RoundTrip: both ends of the range, and just outside. -/
theorem witness_oversample_ranges :
    ((0 : Int) ≤ 0 ∧ (0 : Int) ≤ 7) ∧ ((0 : Int) ≤ 7 ∧ (7 : Int) ≤ 7) ∧ ((-1 : Int) < 0 ∨ 7 < (-1 : Int)) ∧ ((8 : Int) < 0 ∨ 7 < (8 : Int)) := by
  decide

theorem witness_Ctrl1BytesAreThe64 :
    ((0 : Int) ≤ 7 ∧ (7 : Int) ≤ 7) ∧ ∃ t, exec (.encCtrl1 7 true true true) State.reset = .next t := ⟨by decide, _, rfl⟩

theorem witness_EncBarInResult :
    ((0 : Int) ≤ 0 ∧ (0 : Int) ≤ 131071) ∧ ((0 : Int) ≤ 131071 ∧ (131071 : Int) ≤ 131071) ∧
    ((131072 : Int) ≤ 131072 ∧ ({ State.reset with cfg := { barInOverflow := .wrap } } : State).cfg.barInOverflow = .wrap) ∧
    ((131072 : Int) ≤ 131072 ∧ State.reset.cfg.barInOverflow = .refuse) ∧ (-1 : Int) < 0 := by decide

theorem witness_EncOffHResult :
    ((-128 : Int) ≤ -128 ∧ (-128 : Int) ≤ 127) ∧ ((-128 : Int) ≤ 127 ∧ (127 : Int) ≤ 127) ∧
    ((-129 : Int) < -128 ∨ 127 < (-129 : Int)) ∧ ((128 : Int) < -128 ∨ 127 < (128 : Int)) := by decide

theorem witness_EncOffPResult :
    ((-512 : Int) ≤ -512 ∧ (-512 : Int) ≤ 508) ∧ ((-512 : Int) ≤ 508 ∧ (508 : Int) ≤ 508) ∧
    ((-513 : Int) < -512 ∨ 508 < (-513 : Int)) ∧ ((509 : Int) < -512 ∨ 508 < (509 : Int)) ∧
    State.reset.cfg.presOffRound = .trunc ∧ ({ State.reset with cfg := { presOffRound := .floor } } : State).cfg.presOffRound = .floor := by
  decide

/-- EncOffTResult and TempTargetParameterMovesOnlyAddress: both ends of the range, and just outside; each rounding. -/
theorem witness_EncOffTResult :
    ((-8 : Rat) ≤ -8 ∧ (-8 : Rat) ≤ 127 / 16) ∧ ((-8 : Rat) ≤ 127 / 16 ∧ (127 / 16 : Rat) ≤ 127 / 16) ∧
    ((-129 / 16 : Rat) < -8 ∨ 127 / 16 < (-129 / 16 : Rat)) ∧ ((8 : Rat) < -8 ∨ 127 / 16 < (8 : Rat)) := by norm_num

theorem witness_temperature_roundings :
    State.reset.cfg.tempOffRound = .trunc ∧ ({ State.reset with cfg := { tempOffRound := .floor } } : State).cfg.tempOffRound = .floor ∧
    ({ State.reset with cfg := { tempOffRound := .nearest } } : State).cfg.tempOffRound = .nearest := by decide

/-- OperationsChangeOnlyOutputs and OperationsDriveTheirPorts: a success and an error. -/
theorem witness_OperationsChangeOnlyOutputs :
    (∃ t, exec (.encOs 7) State.reset = .next t) ∧ ∃ t, exec (.encOs 8) State.reset = .next t := ⟨⟨_, rfl⟩, _, rfl⟩

theorem witness_UnreadPortsDontMatter :
    (ports 0x04).op = (encode 32 (.encAlt true)).op ∧ AgreeOnReads 32 (ports 0x04).op (ports 0x04) (encode 32 (.encAlt true)) ∧
    ports 0x04 ≠ encode 32 (.encAlt true) :=
  ⟨rfl, rfl, by decide⟩

theorem witness_EvaluationForgetsHistory :
    State.reset.req = ({ State.reset with out := errorResult 0b01 } : State).req ∧
    State.reset.cfg = ({ State.reset with out := errorResult 0b01 } : State).cfg := ⟨rfl, rfl⟩

/-- EvaluationIsIdempotent and EvaluationOutputsLegal. -/
theorem witness_EvaluationIsIdempotent : ∃ t, evaluate State.reset = .next t := ⟨_, rfl⟩

theorem witness_RefusedOperandsExactly : ¬ ∃ t, exec (.encBarIn (-1)) State.reset = .next t := by
  rintro ⟨t, h⟩
  cases h

theorem witness_EncodedWidthMatchesMap :
    (∃ t, exec (.encBarIn 2) State.reset = .next t ∧ t.out.ao = some 0x14 ∧ t.out.nb = some 2) ∧
    ∃ t, exec (.encOffH 0) State.reset = .next t ∧ t.out.ao = some 0x2D ∧ t.out.nb = some 1 :=
  ⟨⟨_, rfl, rfl, rfl⟩, _, rfl, rfl, rfl⟩

/-- AssembledInstructionsArePresentable: an accepted line, its first word, and digits of each base. -/
theorem witness_AssembledInstructionsArePresentable :
    (assemble 32 "ENC_OS 0xFFFFFFFF").toOption = some (.encOs (-1)) ∧ mnemonicText "ENC_OS 7 ; code" = (Instr.encOs 7).mnemonic.toList ∧
    operandTexts "ENC_OS 7 ; code" = [['7']] ∧ parseInteger ['7'] = some 7 ∧
    ([9, 0] ≠ [] ∧ ∀ d ∈ [9, 0], d < 10) ∧ ([15, 0] ≠ [] ∧ ∀ d ∈ [15, 0], d < 16) ∧ digitsValue 10 [9, 0] ≠ 0 := by decide

/-- AssembledInstructionsArePresentable, a written line: operands, commas, blanks and a comment. -/
theorem witness_writtenLine :
    WrittenAs " ENC_EVENT 1, 0 ; both".toList (Instr.encEvent true false).mnemonic.toList [['1'], ['0']] ∧
    OperandsRead 32 (.encEvent true false) [['1'], ['0']] ∧
    WrittenAs "DEF_SLP".toList Instr.defSlp.mnemonic.toList [] ∧ OperandsRead 32 .defSlp [] := by
  refine ⟨⟨by simp, [' '], [' '], [' '], [' '], "; both".toList, ?_⟩, rfl, ⟨by simp, [], [], [], [], [], ?_⟩, rfl⟩ <;>
    simp [Blanks, writtenOperands, Instr.mnemonic]

/-- One state in each stage, with no further call waiting, from which a step goes on; and a call that waits, of each kind. -/
theorem witness_StagesFollowContract :
    (∃ t, step State.reset = .next t) ∧ State.reset.calls = [] ∧
    (∃ t, step (hostAt (.configMode 7 .altimeter) (.encCtrl1 7 true false false) [none] []) = .next t) ∧
    (∃ t, step (hostAt (.polling .altimeter 1) (.decStatus 0x00) [none] [0x08]) = .next t) ∧
    (∃ t, step (hostAt (.convertTemp .altimeter ⟨0, 0, 0, 0, 0, 0⟩ 0) (.decQ8_4 0 0) [] []) = .next t) ∧
    (∃ t, step (hostAt .resetting (.encRst true) [none] []) = .next t) ∧
    (∃ t, step (hostAt .done (.encRst true) [] []) = .next t) ∧ ∃ t, step (hostAt .failed (.encRst true) [] []) = .next t :=
  ⟨⟨_, rfl⟩, rfl, ⟨_, rfl⟩, ⟨_, rfl⟩, ⟨_, rfl⟩, ⟨_, rfl⟩, ⟨_, rfl⟩, ⟨_, rfl⟩⟩

/-- One call of each kind. -/
def calls : List Call :=
  [.measure 7 .altimeter, .reset, .setSeaLevel 101326, .getDefaultSeaLevel, .compensateAltitude 0xFFFFFFFF, .compensatePressure 509,
    .compensateTemperature (mkRat 127 16), .request (ports 0x15)]

/-- StagesFollowContract where a call waits: from idle, and where another call ends, done or failed. -/
theorem witness_StagesFollowContract_calls :
    (∀ c ∈ calls, ∃ t, step { State.reset with calls := [c, .reset] } = .next t) ∧
    (∃ t, step { hostAt .resetting (.encRst true) [none] [] with calls := calls } = .next t) ∧
    ∃ t, step { hostAt (.compensatingPressure 509) (.encOffP 509) [] [] with calls := calls } = .next t :=
  ⟨by intro c hc; exact ⟨_, rfl⟩, ⟨_, rfl⟩, ⟨_, rfl⟩⟩

/-- RequestCallReturnsOutputs: an answer, an error, a refusal. -/
theorem witness_RequestCallReturnsOutputs :
    (∃ u, evaluate (hostAt .requesting (.encOs 5) [] []) = .next u) ∧ (∃ u, evaluate (hostAt .requesting (.encOs 8) [] []) = .next u) ∧
    evaluate (hostAt .requesting (.encOffH 128) [] []) = .refused .altitudeOffsetOutsideInt8 := ⟨⟨_, rfl⟩, ⟨_, rfl⟩, rfl⟩

theorem witness_FirstWriteSetsModeAndOversample :
    (hostAt (.configMode 7 .altimeter) (.encCtrl1 7 true false false) [none] []).req =
      encode 32 (.encCtrl1 (intOperand 32 7) (PressureMode.altimeter == .altimeter) false false) ∧
    (0 ≤ intOperand 32 7 ∧ intOperand 32 7 ≤ 7) ∧ ¬ (0 ≤ intOperand 32 8 ∧ intOperand 32 8 ≤ 7) ∧
    (hostAt (.configMode 8 .altimeter) (.encCtrl1 8 true false false) [none] []).req =
      encode 32 (.encCtrl1 (intOperand 32 8) (PressureMode.altimeter == .altimeter) false false) ∧
    (busAnswer (hostAt (.configMode 7 .altimeter) (.encCtrl1 7 true false false) [none] [])).1 = none := by decide

theorem witness_SecondWriteEnablesEvents :
    (hostAt (.configEvent 7 .barometer) (.encEvent true true) [none] []).phase = .configEvent 7 .barometer ∧
    (hostAt (.configEvent 7 .barometer) (.encEvent true true) [none] []).req = encode 32 (.encEvent true true) ∧
    (busAnswer (hostAt (.configEvent 7 .barometer) (.encEvent true true) [none] [])).1 = none := by decide

theorem witness_ThirdWriteActivates :
    (hostAt (.configActive 0 .barometer) (.encCtrl1 0 false false true) [none, none] [0x0C]).req =
      encode 32 (.encCtrl1 (intOperand 32 0) (PressureMode.barometer == .altimeter) false true) ∧
    (0 ≤ intOperand 32 0 ∧ intOperand 32 0 ≤ 7) ∧
    (∃ rest, (hostAt (.configActive 0 .barometer) (.encCtrl1 0 false false true) [none, none] [0x0C]).busReplies = none :: none :: rest) ∧
    ∃ rest, (hostAt (.configActive 0 .barometer) (.encCtrl1 0 false false true) [none, none] [0x0C]).devBytes = 0x0C :: rest :=
  ⟨by decide, by decide, ⟨_, rfl⟩, ⟨_, rfl⟩⟩

/-- The poll goes on without a bound, goes on below a bound, and ends at it. -/
theorem witness_PollRepeatsUntilReady :
    (hostAt (.polling .barometer 1) (.decStatus 0xF7) [none] [0x00]).req = encode 32 (.decStatus 0xF7) ∧ (0xF7 : Byte).toNat / 8 % 2 = 0 ∧
    (hostAt (.polling .barometer 1) (.decStatus 0xF7) [none] [0x00]).cfg.pollMax = none ∧
    (∃ rest, (hostAt (.polling .barometer 1) (.decStatus 0xF7) [none] [0x00]).busReplies = none :: rest) ∧
    (∃ rest, (hostAt (.polling .barometer 1) (.decStatus 0xF7) [none] [0x00]).devBytes = 0x00 :: rest) ∧
    (({ pollMax := some 2 } : Config).pollMax = some 2 ∧ 1 < 2) ∧ ({ pollMax := some 1 } : Config).pollMax = some 1 ∧ 1 ≤ 1 :=
  ⟨by decide, by decide, rfl, ⟨_, rfl⟩, ⟨_, rfl⟩, by decide, by decide⟩

theorem witness_ReadyPollReadsBlock :
    (hostAt (.polling .barometer 3) (.decStatus 0x08) [none, none] [0x0C, 0x01, 0x90, 0x30, 0x16, 0x40]).req = encode 32 (.decStatus 0x08) ∧
    (0x08 : Byte).toNat / 8 % 2 = 1 ∧
    (∃ rest, (hostAt (.polling .barometer 3) (.decStatus 0x08) [none, none] [0x0C, 0x01, 0x90, 0x30, 0x16, 0x40]).busReplies =
      none :: none :: rest) ∧
    ∃ rest, (hostAt (.polling .barometer 3) (.decStatus 0x08) [none, none] [0x0C, 0x01, 0x90, 0x30, 0x16, 0x40]).devBytes =
      0x0C :: 0x01 :: 0x90 :: 0x30 :: 0x16 :: 0x40 :: rest :=
  ⟨by decide, by decide, ⟨_, rfl⟩, ⟨_, rfl⟩⟩

def sampleBlock : MeasBlock := ⟨0x0C, 0x01, 0x90, 0x30, 0x16, 0x40⟩

theorem witness_ConversionReturnsBothValues :
    (hostAt (.convertMain .altimeter sampleBlock) (.decQ16_4 0x01 0x90 0x30) [] []).req =
      encode 32 (.decQ16_4 sampleBlock.pMsb sampleBlock.pCsb sampleBlock.pLsb) ∧
    (hostAt (.convertMain .barometer sampleBlock) (.decQ18_2 0x01 0x90 0x30) [] []).req =
      encode 32 (.decQ18_2 sampleBlock.pMsb sampleBlock.pCsb sampleBlock.pLsb) ∧
    (hostAt (.convertTemp .altimeter sampleBlock 0) (.decQ8_4 0x16 0x40) [] []).req =
      encode 32 (.decQ8_4 sampleBlock.tMsb sampleBlock.tLsb) := by decide

/-- BusFailureFailsCall: the three writes of the configuration, and the first status read. -/
theorem witness_BusFailureFailsCall_configuring :
    (0 ≤ intOperand 32 7 ∧ intOperand 32 7 ≤ 7) ∧
    ((busAnswer (hostAt (.configMode 7 .altimeter) (.encCtrl1 7 true false false) [some 9] [])).1 = some 9 ∧
      (hostAt (.configMode 7 .altimeter) (.encCtrl1 7 true false false) [some 9] []).req =
        encode 32 (.encCtrl1 (intOperand 32 7) (PressureMode.altimeter == .altimeter) false false)) ∧
    ((busAnswer (hostAt (.configEvent 7 .altimeter) (.encEvent true true) [some 9] [])).1 = some 9 ∧
      (hostAt (.configEvent 7 .altimeter) (.encEvent true true) [some 9] []).req = encode 32 (.encEvent true true)) ∧
    ((busAnswer (hostAt (.configActive 7 .altimeter) (.encCtrl1 7 true false true) [some 9] [])).1 = some 9 ∧
      (hostAt (.configActive 7 .altimeter) (.encCtrl1 7 true false true) [some 9] []).req =
        encode 32 (.encCtrl1 (intOperand 32 7) (PressureMode.altimeter == .altimeter) false true)) ∧
    ∃ rest, (hostAt (.configActive 7 .altimeter) (.encCtrl1 7 true false true) [none, some 9] []).busReplies = none :: some 9 :: rest :=
  ⟨by decide, by decide, by decide, by decide, ⟨_, rfl⟩⟩

/-- BusFailureFailsCall: a later status read, without a bound and below one, the cursor write, and the read of the block. -/
theorem witness_BusFailureFailsCall :
    ((busAnswer (hostAt (.polling .altimeter 1) (.decStatus 0x00) [some 9] [])).1 = some 9 ∧ (0x00 : Byte).toNat / 8 % 2 = 0 ∧
      (hostAt (.polling .altimeter 1) (.decStatus 0x00) [some 9] []).cfg.pollMax = none) ∧
    (({ pollMax := some 2 } : Config).pollMax = some 2 ∧ 1 < 2) ∧
    ((busAnswer (hostAt (.polling .altimeter 1) (.decStatus 0x08) [some 9] [])).1 = some 9 ∧ (0x08 : Byte).toNat / 8 % 2 = 1) ∧
    ∃ rest, (hostAt (.polling .altimeter 1) (.decStatus 0x08) [none, some 9] []).busReplies = none :: some 9 :: rest :=
  ⟨by decide, by decide, by decide, ⟨_, rfl⟩⟩

/-- ResetCallSuppressesBusFailure, with a bus that fails. -/
theorem witness_ResetCallSuppressesBusFailure :
    (hostAt .resetting (.encRst true) [some 5] []).phase = .resetting ∧
    (hostAt .resetting (.encRst true) [some 5] []).req = encode 32 (.encRst true) := by decide

/-- SeaLevelCalls: the largest pressure that is not wrapped, one that is, a bus that answers and one that fails, the refused ones. -/
theorem witness_SeaLevelCalls :
    ((hostAt (.settingSeaLevel 131071) (.encBarIn 131071) [none] []).req = encode 32 (.encBarIn (intOperand 32 131071)) ∧
      (0 ≤ intOperand 32 131071 ∧ intOperand 32 131071 ≤ 131071) ∧
      (busAnswer (hostAt (.settingSeaLevel 131071) (.encBarIn 131071) [none] [])).1 = none ∧
      (busAnswer (hostAt (.settingSeaLevel 131071) (.encBarIn 131071) [some 9] [])).1 = some 9) ∧
    (0 ≤ intOperand 32 131072 ∧ ({ barInOverflow := .wrap } : Config).barInOverflow = .wrap) ∧
    (131072 ≤ intOperand 32 131072 ∧ State.reset.cfg.barInOverflow = .refuse) ∧ intOperand 32 0xFFFFFFFF < 0 ∧
    (hostAt .gettingSeaLevel .defSlp [] []).req = encode 32 .defSlp := by decide

/-- CompensationCalls: a call that writes, with a bus that answers and one that fails; one that fails its validation; a refused one. -/
theorem witness_CompensationCalls :
    (hostAt (.compensatingPressure 0xFFFFFE00) (.encOffP (-512)) [none] []).req = encode 32 (.encOffP (intOperand 32 0xFFFFFE00)) ∧
    exec (.encOffP (-512)) (hostAt (.compensatingPressure 0xFFFFFE00) (.encOffP (-512)) [none] []) =
      .next { hostAt (.compensatingPressure 0xFFFFFE00) (.encOffP (-512)) [none] [] with out := byteResult 0x2B 0x80 } ∧
    (busAnswer (hostAt (.compensatingPressure 0xFFFFFE00) (.encOffP (-512)) [some 9] [])).1 = some 9 ∧
    exec (.encOffP 509) (hostAt (.compensatingPressure 509) (.encOffP 509) [none] []) =
      .next { hostAt (.compensatingPressure 509) (.encOffP 509) [none] [] with out := errorResult 0b01 } ∧
    exec (.encOffH 128) (hostAt (.compensatingAltitude 128) (.encOffH 128) [none] []) = .refused .altitudeOffsetOutsideInt8 :=
  ⟨by decide, rfl, by decide, rfl, rfl⟩

theorem witness_StepOnlyAppendsTraceAndResults : ∃ t, step (hostAt .resetting (.encRst true) [none] []) = .next t := ⟨_, rfl⟩

/-- MeasurementEndToEnd: P1's measurement, with its two polls that were not ready. -/
theorem witness_MeasurementEndToEnd :
    (hostAt (.configMode 7 .barometer) (.encCtrl1 7 false false false) (List.replicate 8 none)
      [0x00, 0x00, 0x0C, 0x0C, 0x01, 0x90, 0x30, 0x16, 0x40]).req =
      encode 32 (.encCtrl1 (intOperand 32 7) (PressureMode.barometer == .altimeter) false false) ∧
    (0 ≤ intOperand 32 7 ∧ intOperand 32 7 ≤ 7) ∧ (∀ v ∈ [(0x00 : Byte), 0x00], v.toNat / 8 % 2 = 0) ∧
    (0x0C : Byte).toNat / 8 % 2 = 1 ∧ State.reset.cfg.pollMax = none ∧
    List.replicate 8 (none : Option Nat) = List.replicate ([(0x00 : Byte), 0x00].length + 6) none ++ [] ∧
    [(0x00 : Byte), 0x00, 0x0C, 0x0C, 0x01, 0x90, 0x30, 0x16, 0x40] =
      [0x00, 0x00] ++ [0x0C, sampleBlock.status, sampleBlock.pMsb, sampleBlock.pCsb, sampleBlock.pLsb, sampleBlock.tMsb,
        sampleBlock.tLsb] ++ [] := by decide

theorem witness_UnboundedPollMayNeverEnd :
    (hostAt (.polling .barometer 1) (.decStatus 0x00) (List.replicate 3 none) (List.replicate 3 0x00)).req = encode 32 (.decStatus 0x00) ∧
    (0x00 : Byte).toNat / 8 % 2 = 0 ∧ State.reset.cfg.pollMax = none := by decide

end Sys2Proof.Tests
end

section
/-! PROOFS. The reserved codes of `OP` (R74): what the decoder answers, and what the block then drives (R222). -/

namespace Sys2Proof.Machine

/-- The codes above R71's last row fall to the decoder's default arm. -/
theorem decode_of_reserved (w : Nat) (r : Request) (h : 0x11 ≤ r.op.toNat) : decode w r = .error (.reservedOp r.op) := by
  unfold decode
  split
  case h_18 => rfl
  all_goals omega

/-- A request the decoder rejects, whatever the reason, raises `E_ILLEGAL_OP` and reads no operand. -/
theorem evaluate_of_decode_error {s : State} {e : DecodeError} (h : decode s.cfg.wInt s.req = .error e) :
    evaluate s = .next { s with out := errorResult 0b10 } := by
  cases e with
  | reservedOp op =>
    unfold evaluate
    rw [h]
    exact raiseError_eq errIllegalOp s

/-- Settles O8: the decoder rejects a reserved `OP`, and a rejected request drives `ERR` alone. The upper bound of the
range is the width of the port and is not needed. -/
theorem reservedOpDrivesIllegalOp : Obligations.ReservedOpDrivesIllegalOp := by
  unfold Obligations.ReservedOpDrivesIllegalOp
  rintro s ⟨hReserved, -⟩
  exact evaluate_of_decode_error (decode_of_reserved s.cfg.wInt s.req hReserved)

end Sys2Proof.Machine
end

section
/-! PROOFS. The fixed-point decoders (R101, R104, R107, R111): which code selects each, what its outputs are in numbers, and that the
low nibble of the last byte does not matter. -/

namespace Sys2Proof.Machine

/-- A code selects an operation as soon as the decoder answers it for every request of that code. -/
theorem selects_of_decode {code : BitVec 5} {f : Nat → Request → Instr}
    (h : ∀ (w : Nat) (r : Request), r.op = code → decode w r = .ok (f w r)) : Selects code f :=
  fun s hop => evaluate_of_decode (h s.cfg.wInt s.req hop)

/-! What each decoder answers, as the result R100(c) names. -/

theorem exec_decQ16_4 (b0 b1 b2 : Byte) (s : State) :
    exec (.decQ16_4 b0 b1 b2) s = .next { s with
      out := decoderResult ((b0 ++ b1).signExtend 32) (highNibble b2) (b0 ++ b1 ++ highNibble b2) } := rfl

theorem exec_decQ18_2 (b0 b1 b2 : Byte) (s : State) :
    exec (.decQ18_2 b0 b1 b2) s = .next { s with
      out := decoderResult (((b0 ++ b1 ++ highNibble b2).extractLsb' 2 18).setWidth 32) ((b2.extractLsb' 4 2).setWidth 4)
        (b0 ++ b1 ++ highNibble b2) } := rfl

theorem exec_decQ8_4 (b0 b1 : Byte) (s : State) :
    exec (.decQ8_4 b0 b1) s = .next { s with
      out := decoderResult (b0.signExtend 32) (highNibble b1) ((b0 ++ highNibble b1).setWidth 20) } := rfl

/-! The signed integers and the short raw word in numbers. -/

theorem q16Integer_toInt (b0 b1 : Byte) :
    ((b0 ++ b1).signExtend 32).toInt =
      if b0.toNat < 128 then (256 * b0.toNat + b1.toNat : Int) else 256 * b0.toNat + b1.toNat - 65536 := by
  have hb1 := b1.isLt
  rw [BitVec.toInt_signExtend_of_le (by decide), BitVec.toInt_eq_toNat_cond, prefix_toNat]
  split <;> split <;> omega

theorem q8Integer_toInt (b0 : Byte) :
    (b0.signExtend 32).toInt = if b0.toNat < 128 then (b0.toNat : Int) else b0.toNat - 256 := by
  rw [BitVec.toInt_signExtend_of_le (by decide), BitVec.toInt_eq_toNat_cond]
  split <;> split <;> omega

theorem q8RawWord_toNat (b0 b1 : Byte) :
    ((b0 ++ highNibble b1).setWidth 20).toNat = 16 * b0.toNat + b1.toNat / 16 := by
  have hb0 := b0.isLt
  have hb1 := b1.isLt
  have hAppend : (b0 ++ highNibble b1).toNat = 16 * b0.toNat + b1.toNat / 16 := by
    rw [BitVec.toNat_append, ← Nat.shiftLeft_add_eq_or_of_lt (highNibble b1).isLt, highNibble_toNat, Nat.shiftLeft_eq]
    omega
  rw [BitVec.toNat_setWidth, hAppend]
  omega

/-- Settles O9: `IO` is the sign-extended 16-bit prefix, `FO` the high nibble of `B2`, `RAW` the 20-bit word of both. -/
theorem decQ16Result : Obligations.DecQ16Result := by
  unfold Obligations.DecQ16Result
  refine ⟨selects_of_decode fun w r hop => by simp [decode, hop], fun s b0 b1 b2 => ?_⟩
  exact ⟨_, _, _, exec_decQ16_4 b0 b1 b2 s, q16Integer_toInt b0 b1, highNibble_toNat b2, rawWord_toNat b0 b1 b2⟩

/-- Settles O10: `IO` and `FO` are the upper 18 and the lower 2 bits of the 20-bit raw word. -/
theorem decQ18Result : Obligations.DecQ18Result := by
  unfold Obligations.DecQ18Result
  refine ⟨selects_of_decode fun w r hop => by simp [decode, hop], fun s b0 b1 b2 => ?_⟩
  exact ⟨_, _, _, exec_decQ18_2 b0 b1 b2 s, q18Integer_toNat b0 b1 b2, q18Fraction_toNat b2, rawWord_toNat b0 b1 b2⟩

/-- Settles O11: `IO` is the sign-extended `B0`, and `RAW` the 12-bit word, zero-extended. -/
theorem decQ8Result : Obligations.DecQ8Result := by
  unfold Obligations.DecQ8Result
  refine ⟨selects_of_decode fun w r hop => by simp [decode, hop], fun s b0 b1 => ?_⟩
  exact ⟨_, _, _, exec_decQ8_4 b0 b1 s, q8Integer_toInt b0, highNibble_toNat b1, q8RawWord_toNat b0 b1⟩

/-! What a decoder takes from its last byte is a function of the byte's high nibble (R111). -/

theorem highNibble_congr {x y : Byte} (h : x.toNat / 16 = y.toNat / 16) : highNibble x = highNibble y :=
  BitVec.eq_of_toNat_eq (by rw [highNibble_toNat, highNibble_toNat, h])

theorem q18Fraction_congr {x y : Byte} (h : x.toNat / 16 = y.toNat / 16) :
    (x.extractLsb' 4 2).setWidth 4 = (y.extractLsb' 4 2).setWidth 4 :=
  BitVec.eq_of_toNat_eq (by rw [q18Fraction_toNat, q18Fraction_toNat, h])

/-- Settles O14: the results of each decoder on the two bytes are built from the same high nibble and the same fraction. -/
theorem lowNibbleNeverRead : Obligations.LowNibbleNeverRead := by
  unfold Obligations.LowNibbleNeverRead
  intro s b0 b1 x y h
  have hNibble : highNibble x = highNibble y := highNibble_congr h
  have hFraction := q18Fraction_congr h
  refine ⟨⟨_, exec_decQ16_4 b0 b1 x s, ?_⟩, ⟨_, exec_decQ18_2 b0 b1 x s, ?_⟩, ⟨_, exec_decQ8_4 b0 x s, ?_⟩⟩
  · rw [exec_decQ16_4, hNibble]
  · rw [exec_decQ18_2, hNibble, hFraction]
  · rw [exec_decQ8_4, hNibble]

end Sys2Proof.Machine
end

section
/-! PROOFS. The control-register encoders (R131 to R136): which code selects each, what it drives, and the bytes in numbers. The field
bytes of CTRL_REG1 lie in different bits, so the byte ENC_CTRL1 composes by OR is their sum (R29). -/

namespace Sys2Proof.Machine

theorem osInRange_iff (os : Int) : osInRange os = true ↔ 0 ≤ os ∧ os ≤ 7 := decide_eq_true_iff

/-! What each encoder answers, as the results R130(a) and (c) name. -/

theorem exec_encOs_of_inRange (s : State) {os : Int} (h : 0 ≤ os ∧ os ≤ 7) :
    exec (.encOs os) s = .next { s with out := byteResult 0x26 (osField os) } :=
  if_pos ((osInRange_iff os).2 h)

theorem exec_encOs_of_outOfRange (s : State) {os : Int} (h : os < 0 ∨ 7 < os) :
    exec (.encOs os) s = .next { s with out := errorResult 0b01 } :=
  if_neg (by rw [osInRange_iff]; omega)

theorem exec_encAlt (alt : Bool) (s : State) :
    exec (.encAlt alt) s = .next { s with out := byteResult 0x26 (altField alt) } := rfl

theorem exec_encRst (rst : Bool) (s : State) :
    exec (.encRst rst) s = .next { s with out := byteResult 0x26 (rstField rst) } := rfl

theorem exec_encSbyb (active : Bool) (s : State) :
    exec (.encSbyb active) s = .next { s with out := byteResult 0x26 (sbybField active) } := rfl

theorem exec_encEvent (temp pres : Bool) (s : State) :
    exec (.encEvent temp pres) s = .next { s with
      out := byteResult 0x13 (flagByte temp 0x01 ||| flagByte pres 0x02 ||| flagByte (temp || pres) 0x04) } := rfl

/-- The byte ENC_CTRL1 composes (R136). -/
def ctrl1Byte (os : Int) (alt rst active : Bool) : Byte :=
  altField alt ||| osField os ||| rstField rst ||| sbybField active

theorem exec_encCtrl1_of_inRange (s : State) {os : Int} (alt rst active : Bool) (h : 0 ≤ os ∧ os ≤ 7) :
    exec (.encCtrl1 os alt rst active) s =
      .next { s with out := byteResult 0x26 (ctrl1Byte os alt rst active) } :=
  if_pos ((osInRange_iff os).2 h)

theorem exec_encCtrl1_of_outOfRange (s : State) {os : Int} (alt rst active : Bool) (h : os < 0 ∨ 7 < os) :
    exec (.encCtrl1 os alt rst active) s = .next { s with out := errorResult 0b01 } :=
  if_neg (by rw [osInRange_iff]; omega)

/-! The field bytes in numbers, and that no two of them share a bit (R28, R29). -/

theorem osField_toNat {os : Int} (h : 0 ≤ os ∧ os ≤ 7) : ((osField os).toNat : Int) = os * 8 := by
  rw [osField, bits, BitVec.toNat_ofInt]
  omega

theorem altField_toNat (alt : Bool) : (altField alt).toNat = if alt then 0x80 else 0 := by cases alt <;> rfl

theorem rstField_toNat (rst : Bool) : (rstField rst).toNat = if rst then 0x04 else 0 := by cases rst <;> rfl

theorem sbybField_toNat (active : Bool) : (sbybField active).toNat = if active then 0x01 else 0 := by cases active <;> rfl

theorem flagByte_and_flagByte {v w : Byte} (h : v &&& w = 0) (f g : Bool) : flagByte f v &&& flagByte g w = 0 := by
  cases f with
  | false => exact BitVec.zero_and
  | true =>
    cases g with
    | false => exact BitVec.and_zero
    | true => exact h

/-- An oversample ratio fills bits 5:3 and no other. -/
theorem osField_and_mask {os : Int} (h : 0 ≤ os ∧ os ≤ 7) : osField os &&& 0x38 = osField os := by
  obtain ⟨hLow, hHigh⟩ := h
  interval_cases os <;> decide

theorem osField_and_flagByte {os : Int} (h : 0 ≤ os ∧ os ≤ 7) {v : Byte} (hv : 0x38 &&& v = 0) (flag : Bool) :
    osField os &&& flagByte flag v = 0 := by
  cases flag with
  | false => exact BitVec.and_zero
  | true =>
    calc osField os &&& v = osField os &&& 0x38 &&& v := by rw [osField_and_mask h]
      _ = 0 := by rw [BitVec.and_assoc, hv]; exact BitVec.and_zero

/-- The OR of two bytes, each apart from a third, is apart from it. -/
theorem or_and_eq_zero {x y z : Byte} (hx : x &&& z = 0) (hy : y &&& z = 0) : (x ||| y) &&& z = 0 := by
  rw [BitVec.and_or_distrib_right, hx, hy]
  exact BitVec.or_zero

/-- The field bytes are pairwise disjoint, so their OR is their sum (R29). -/
theorem ctrl1Byte_eq_sum {os : Int} (alt rst active : Bool) (h : 0 ≤ os ∧ os ≤ 7) :
    ctrl1Byte os alt rst active = altField alt + osField os + rstField rst + sbybField active := by
  have hAltOs : altField alt &&& osField os = 0 := by
    rw [BitVec.and_comm]; exact osField_and_flagByte h (by decide) alt
  have hRst : (altField alt ||| osField os) &&& rstField rst = 0 :=
    or_and_eq_zero (flagByte_and_flagByte (by decide) alt rst) (osField_and_flagByte h (by decide) rst)
  have hSbyb : (altField alt ||| osField os ||| rstField rst) &&& sbybField active = 0 :=
    or_and_eq_zero
      (or_and_eq_zero (flagByte_and_flagByte (by decide) alt active) (osField_and_flagByte h (by decide) active))
      (flagByte_and_flagByte (by decide) rst active)
  rw [ctrl1Byte, BitVec.add_eq_or_of_and_eq_zero _ _ hAltOs, BitVec.add_eq_or_of_and_eq_zero _ _ hRst,
    BitVec.add_eq_or_of_and_eq_zero _ _ hSbyb]

theorem ctrl1Byte_toNat {os : Int} (alt rst active : Bool) (h : 0 ≤ os ∧ os ≤ 7) :
    ((ctrl1Byte os alt rst active).toNat : Int) =
      (if alt then 0x80 else 0) + os * 8 + (if rst then 0x04 else 0) + (if active then 0x01 else 0) := by
  have hOs := osField_toNat h
  rw [ctrl1Byte_eq_sum alt rst active h]
  simp only [BitVec.toNat_add, altField_toNat, rstField_toNat, sbybField_toNat]
  split_ifs <;> omega

/-- Settles O16: in range the byte is the OS field, and out of range the check fails. -/
theorem encOsResult : Obligations.EncOsResult := by
  unfold Obligations.EncOsResult
  refine ⟨selects_of_decode fun w r hop => by simp [decode, hop], fun s os => ⟨fun h => ?_, fun h => ?_⟩⟩
  · exact ⟨_, exec_encOs_of_inRange s h, osField_toNat h⟩
  · exact exec_encOs_of_outOfRange s h

/-- Settles O21: in range the byte is the sum of the disjoint fields, and out of range the check fails before a Boolean counts. -/
theorem encCtrl1Result : Obligations.EncCtrl1Result := by
  unfold Obligations.EncCtrl1Result
  refine ⟨selects_of_decode fun w r hop => by simp [decode, hop], fun s os alt rst active => ⟨fun h => ?_, fun h => ?_⟩⟩
  · exact ⟨_, exec_encCtrl1_of_inRange s alt rst active h, ctrl1Byte_toNat alt rst active h⟩
  · exact exec_encCtrl1_of_outOfRange s alt rst active h

/-- Settles O17: the byte is the ALT field. -/
theorem encAltResult : Obligations.EncAltResult := by
  unfold Obligations.EncAltResult
  exact ⟨selects_of_decode fun w r hop => by simp [decode, hop], fun s alt => exec_encAlt alt s⟩

/-- Settles O18: the byte is the RST field. -/
theorem encRstResult : Obligations.EncRstResult := by
  unfold Obligations.EncRstResult
  exact ⟨selects_of_decode fun w r hop => by simp [decode, hop], fun s rst => exec_encRst rst s⟩

/-- Settles O19: the byte is the SBYB field. -/
theorem encSbybResult : Obligations.EncSbybResult := by
  unfold Obligations.EncSbybResult
  exact ⟨selects_of_decode fun w r hop => by simp [decode, hop], fun s active => exec_encSbyb active s⟩

/-- Settles O20: the OR of the two requests' flags and of DREM, at the four inputs. -/
theorem encEventResult : Obligations.EncEventResult := by
  unfold Obligations.EncEventResult
  refine ⟨selects_of_decode fun w r hop => by simp [decode, hop], fun s => ⟨?_, ?_, ?_, ?_⟩⟩
  · exact exec_encEvent false false s
  · exact exec_encEvent true false s
  · exact exec_encEvent false true s
  · exact exec_encEvent true true s

end Sys2Proof.Machine
end

section
/-! PROOFS. The register decoders and the map lookup (R160, R164): which code selects each and what it answers. -/

namespace Sys2Proof.Machine

/-! DEC_CTRL1's fields in numbers. -/

theorem exec_decCtrl1 (b : Byte) (s : State) :
    exec (.decCtrl1 b) s = .next { s with
      out := ctrlResult (b.extractLsb' 3 3) (b.getLsbD 7) (b.getLsbD 2) (b.getLsbD 0) } := rfl

theorem getLsbD_eq_div_mod (b : Byte) (i : Nat) : b.getLsbD i = (b.toNat / 2 ^ i % 2 == 1) := by
  rw [← BitVec.testBit_toNat, Nat.testBit_eq_decide_div_mod_eq, beq_eq_decide]

theorem osBits_toNat (b : Byte) : (b.extractLsb' 3 3).toNat = b.toNat / 8 % 8 := by
  rw [BitVec.extractLsb'_toNat, Nat.shiftRight_eq_div_pow]

/-- Settles O24: each flag is a bit of the byte, and `O_OS` the three bits from bit 3. -/
theorem decCtrl1Result : Obligations.DecCtrl1Result := by
  unfold Obligations.DecCtrl1Result
  refine ⟨selects_of_decode fun w r hop => by simp [decode, hop], fun s b => ⟨b.extractLsb' 3 3, ?_, osBits_toNat b⟩⟩
  have hAlt : b.getLsbD 7 = (b.toNat / 128 % 2 == 1) := getLsbD_eq_div_mod b 7
  have hRst : b.getLsbD 2 = (b.toNat / 4 % 2 == 1) := getLsbD_eq_div_mod b 2
  have hSbyb : b.getLsbD 0 = (b.toNat % 2 == 1) := by rw [getLsbD_eq_div_mod, pow_zero, Nat.div_one]
  rw [exec_decCtrl1, hAlt, hRst, hSbyb]

/-! The register map against R52's table. -/

theorem exec_regWidth (a : Byte) (s : State) :
    exec (.regWidth a) s = .next { s with out := integerResult (BitVec.ofNat 32 (regWidthAt a)) } := rfl

/-- The rows of R52 are the entries of the map, in its order. -/
theorem regMap_map_addr_width : regMap.map (fun e => (e.addr.toNat, e.width)) = registerMapRows := rfl

theorem mem_registerMapRows_iff (n w : Nat) :
    (n, w) ∈ registerMapRows ↔ ∃ e ∈ regMap, e.addr.toNat = n ∧ e.width = w := by
  simp [← regMap_map_addr_width]

theorem regEntryAt_eq_some {a : Byte} {e : RegEntry} (h : regEntryAt a = some e) : e ∈ regMap ∧ e.addr = a := by
  have hStarts := List.find?_some h
  exact ⟨List.mem_of_find?_eq_some h, eq_of_beq hStarts⟩

theorem addr_ne_of_regEntryAt_eq_none {a : Byte} (h : regEntryAt a = none) {e : RegEntry} (he : e ∈ regMap) : e.addr ≠ a :=
  fun hAddr => List.find?_eq_none.1 h e he (beq_iff_eq.2 hAddr)

theorem regWidthAt_of_some {a : Byte} {e : RegEntry} (h : regEntryAt a = some e) : regWidthAt a = e.width := by
  rw [regWidthAt, h]

theorem regWidthAt_of_none {a : Byte} (h : regEntryAt a = none) : regWidthAt a = 0 := by
  rw [regWidthAt, h]

/-- The looked-up width is a row's, or it is 0 and the address starts no row. -/
theorem regWidthAt_spec (a : Byte) :
    (a.toNat, regWidthAt a) ∈ registerMapRows ∨ (regWidthAt a = 0 ∧ ∀ w, (a.toNat, w) ∉ registerMapRows) := by
  cases h : regEntryAt a with
  | some e =>
    obtain ⟨hMem, hAddr⟩ := regEntryAt_eq_some h
    exact .inl ((mem_registerMapRows_iff _ _).2 ⟨e, hMem, congrArg BitVec.toNat hAddr, (regWidthAt_of_some h).symm⟩)
  | none =>
    refine .inr ⟨regWidthAt_of_none h, fun w hRow => ?_⟩
    obtain ⟨e, hMem, hAddr, -⟩ := (mem_registerMapRows_iff _ _).1 hRow
    exact addr_ne_of_regEntryAt_eq_none h hMem (BitVec.eq_of_toNat_eq hAddr)

/-- Settles O27: the width is the one looked up, whether or not the address starts a row. -/
theorem regWidthResult : Obligations.RegWidthResult := by
  unfold Obligations.RegWidthResult
  refine ⟨selects_of_decode fun w r hop => by simp [decode, hop], fun s a => ?_⟩
  exact ⟨_, exec_regWidth a s, regWidthAt_spec a⟩

end Sys2Proof.Machine
end

section
/-! PROOFS. The value encoders (R191, R194, R195, R197, R198): which code selects each, what it answers case by case, and the bytes in
numbers. A rounded value is less than 1 away from the exact one, so it stays within the integer bounds of the exact one and its
two's-complement byte loses nothing. -/

namespace Sys2Proof.Machine

/-! Two's-complement bytes and byte pairs in numbers (R9, R190). -/

theorem bits8_toInt {i : Int} (h : -128 ≤ i ∧ i ≤ 127) : (bits 8 i).toInt = i :=
  BitVec.toInt_ofInt_eq_self (by decide) h.1 (Int.lt_add_one_of_le h.2)

theorem bits16_toNat (i : Int) : ((bits 16 i).toNat : Int) = i % 65536 := by
  rw [bits, BitVec.toNat_ofInt]
  omega

/-- The two bytes of a word, high byte first, make up the word. -/
theorem highByte_lowByte_toNat (v : BitVec 16) :
    256 * (v.extractLsb' 8 8).toNat + (v.extractLsb' 0 8).toNat = v.toNat := by
  have hv := v.isLt
  rw [BitVec.extractLsb'_toNat, BitVec.extractLsb'_toNat, Nat.shiftRight_eq_div_pow, Nat.shiftRight_zero]
  omega

theorem bits16_bytes_toNat (i : Int) :
    (256 * ((bits 16 i).extractLsb' 8 8).toNat + ((bits 16 i).extractLsb' 0 8).toNat : Int) = i % 65536 := by
  rw [← bits16_toNat, ← highByte_lowByte_toNat]
  push_cast
  rfl

/-! ENC_BAR_IN, case by case (R191, R223(a), (b)). -/

/-- The outputs of a word sent to BAR_IN, high byte first. -/
def barInResult (v : BitVec 16) : Outputs := twoByteResult 0x14 (v.extractLsb' 8 8) (v.extractLsb' 0 8)

theorem exec_encBarIn_of_neg (s : State) {p : Int} (h : p < 0) : exec (.encBarIn p) s = .refused .negativePressure :=
  if_pos h

theorem exec_encBarIn_of_fits (s : State) {p : Int} (h : 0 ≤ p ∧ p ≤ 131071) :
    exec (.encBarIn p) s = .next { s with out := barInResult (bits 16 (p / 2)) } :=
  (if_neg (by omega)).trans (if_pos (by omega))

theorem exec_encBarIn_of_wrap (s : State) {p : Int} (h : 131072 ≤ p) (hCfg : s.cfg.barInOverflow = .wrap) :
    exec (.encBarIn p) s = .next { s with out := barInResult (bits 16 (p / 2 % 2 ^ 16)) } := by
  refine (if_neg (by omega)).trans ((if_neg (by omega)).trans ?_)
  rw [hCfg]
  rfl

theorem exec_encBarIn_of_refuse (s : State) {p : Int} (h : 131072 ≤ p) (hCfg : s.cfg.barInOverflow = .refuse) :
    exec (.encBarIn p) s = .refused .barInOverflow := by
  refine (if_neg (by omega)).trans ((if_neg (by omega)).trans ?_)
  rw [hCfg]

/-- Settles O30: `p div 2` fits 16 bits up to 131071, and beyond that the parameter decides. -/
theorem encBarInResult : Obligations.EncBarInResult := by
  unfold Obligations.EncBarInResult
  refine ⟨selects_of_decode fun w r hop => by simp [decode, hop], fun s p => ⟨fun h => ?_, fun h hCfg => ?_, ?_, ?_⟩⟩
  · refine ⟨_, _, exec_encBarIn_of_fits s h, ?_⟩
    rw [bits16_bytes_toNat]
    omega
  · refine ⟨_, _, exec_encBarIn_of_wrap s h hCfg, ?_⟩
    rw [bits16_bytes_toNat]
    omega
  · exact exec_encBarIn_of_refuse s
  · exact exec_encBarIn_of_neg s

/-! ENC_OFF_H (R194, R223(c)). -/

theorem altOffInRange_iff (h : Int) : altOffInRange h = true ↔ -128 ≤ h ∧ h ≤ 127 := decide_eq_true_iff

theorem exec_encOffH_of_inRange (s : State) {h : Int} (hr : -128 ≤ h ∧ h ≤ 127) :
    exec (.encOffH h) s = .next { s with out := byteResult 0x2D (bits 8 h) } :=
  if_pos ((altOffInRange_iff h).2 hr)

/-- `OFF_H_WIDE` has one value, so the refusal does not depend on the state. -/
theorem exec_encOffH_of_outOfRange (s : State) {h : Int} (hr : h < -128 ∨ 127 < h) :
    exec (.encOffH h) s = .refused .altitudeOffsetOutsideInt8 := by
  refine (if_neg (by rw [altOffInRange_iff]; omega)).trans ?_
  cases s.cfg.offHWide with
  | refuse => rfl

/-- Settles O32: in range the byte is the offset in two's complement, and outside the check fails. -/
theorem encOffHResult : Obligations.EncOffHResult := by
  unfold Obligations.EncOffHResult
  refine ⟨selects_of_decode fun w r hop => by simp [decode, hop], fun s h => ⟨fun hr => ?_, fun hr => ?_⟩⟩
  · exact ⟨_, exec_encOffH_of_inRange s hr, bits8_toInt hr⟩
  · exact exec_encOffH_of_outOfRange s hr

/-! Rounding stays within integer bounds (R10). -/

/-- A rounded value is less than 1 away from the exact one, in every mode. -/
theorem RoundsTo.near {mode : Rounding} {x : Rat} {q : Int} (h : RoundsTo mode x q) : x - 1 < q ∧ (q : Rat) < x + 1 := by
  cases mode with
  | floor =>
    obtain ⟨hLow, hHigh⟩ := h
    constructor <;> linarith
  | trunc =>
    simp only [RoundsTo] at h
    split at h <;> constructor <;> linarith
  | nearest =>
    simp only [RoundsTo] at h
    split at h <;> constructor <;> linarith

theorem RoundsTo.between {mode : Rounding} {x : Rat} {q a b : Int} (h : RoundsTo mode x q) (ha : (a : Rat) ≤ x) (hb : x ≤ b) :
    a ≤ q ∧ q ≤ b := by
  obtain ⟨hLow, hHigh⟩ := h.near
  have hLow' : (a : Rat) < q + 1 := by linarith
  have hHigh' : (q : Rat) < b + 1 := by linarith
  exact ⟨Int.lt_add_one_iff.1 (by exact_mod_cast hLow'), Int.lt_add_one_iff.1 (by exact_mod_cast hHigh')⟩

/-- A quotient in the range of a signed byte, rounded: its byte, read as signed, is the rounded value. -/
theorem bits8_roundQuotient_roundsTo (mode : Rounding) {n : Int} {d : Nat} {x : Rat} (hd : 0 < d) (hx : (n : Rat) / d = x)
    (h : -128 ≤ x ∧ x ≤ 127) : RoundsTo mode x (bits 8 (roundQuotient mode n d)).toInt := by
  have hRounds : RoundsTo mode x (roundQuotient mode n d) := hx ▸ roundQuotient_roundsTo mode n d hd
  rw [bits8_toInt (hRounds.between (by exact_mod_cast h.1) (by exact_mod_cast h.2))]
  exact hRounds

/-! ENC_OFF_P (R195). -/

theorem presOffInRange_iff (p : Int) : presOffInRange p = true ↔ -512 ≤ p ∧ p ≤ 508 := decide_eq_true_iff

/-- The byte ENC_OFF_P sends (R195). -/
def presOffByte (round : PresOffRound) (p : Int) : Byte := bits 8 (roundQuotient (presRounding round) p 4)

theorem exec_encOffP_of_inRange (s : State) {p : Int} (h : -512 ≤ p ∧ p ≤ 508) :
    exec (.encOffP p) s = .next { s with out := byteResult 0x2B (presOffByte s.cfg.presOffRound p) } :=
  if_pos ((presOffInRange_iff p).2 h)

theorem exec_encOffP_of_outOfRange (s : State) {p : Int} (h : p < -512 ∨ 508 < p) :
    exec (.encOffP p) s = .next { s with out := errorResult 0b01 } :=
  if_neg (by rw [presOffInRange_iff]; omega)

theorem presOffByte_roundsTo {round : PresOffRound} {mode : Rounding} (hMode : presRounding round = mode) {p : Int}
    (h : -512 ≤ p ∧ p ≤ 508) :
    RoundsTo mode ((p : Rat) / 4) (presOffByte round p).toInt := by
  subst hMode
  have hLow : (-512 : Rat) ≤ p := by exact_mod_cast h.1
  have hHigh : (p : Rat) ≤ 508 := by exact_mod_cast h.2
  exact bits8_roundQuotient_roundsTo _ (by decide) rfl ⟨by linarith, by linarith⟩

/-- Settles O33: in range the byte is `p / 4` rounded as the parameter says, and outside the check fails. -/
theorem encOffPResult : Obligations.EncOffPResult := by
  unfold Obligations.EncOffPResult
  refine ⟨selects_of_decode fun w r hop => by simp [decode, hop], fun s p => ⟨fun h => ?_, fun h => ?_⟩⟩
  · exact ⟨_, exec_encOffP_of_inRange s h, fun hCfg => presOffByte_roundsTo (congrArg presRounding hCfg) h,
      fun hCfg => presOffByte_roundsTo (congrArg presRounding hCfg) h⟩
  · exact exec_encOffP_of_outOfRange s h

/-! ENC_OFF_T (R197, R198). -/

/-- The byte ENC_OFF_T sends (R197). -/
def tempOffByte (round : TempOffRound) (t : Rat) : Byte := bits 8 (roundQuotient (tempRounding round) (16 * t.num) t.den)

theorem exec_encOffT_of_inRange (s : State) {t : Rat} (h : -8 ≤ t ∧ t ≤ 127 / 16) :
    exec (.encOffT t) s = .next { s with
      out := byteResult (tempOffsetTarget s.cfg.tempOffsetTarget) (tempOffByte s.cfg.tempOffRound t) } :=
  if_pos ((tempOffInRange_iff t).2 h)

theorem exec_encOffT_of_outOfRange (s : State) {t : Rat} (h : t < -8 ∨ 127 / 16 < t) :
    exec (.encOffT t) s = .next { s with out := errorResult 0b01 } := by
  refine if_neg fun hRange => ?_
  obtain ⟨hLow, hHigh⟩ := (tempOffInRange_iff t).1 hRange
  exact h.elim (not_lt_of_ge hLow) (not_lt_of_ge hHigh)

theorem tempOffsetTarget_eq (target : TempOffsetTarget) :
    tempOffsetTarget target = if target = .offTemp then 0x2C else 0x2B := by
  cases target <;> rfl

theorem tempOffByte_roundsTo {round : TempOffRound} {mode : Rounding} (hMode : tempRounding round = mode) {t : Rat}
    (h : -8 ≤ t ∧ t ≤ 127 / 16) :
    RoundsTo mode (16 * t) (tempOffByte round t).toInt := by
  subst hMode
  obtain ⟨hLow, hHigh⟩ := h
  have hQuotient : ((16 * t.num : Int) : Rat) / t.den = 16 * t := by
    rw [Int.cast_mul, mul_div_assoc, Rat.num_div_den]
    rfl
  exact bits8_roundQuotient_roundsTo _ t.den_pos hQuotient ⟨by linarith, by linarith⟩

/-- Settles O34: in range the byte is `16 t` rounded as the parameter says, and outside the check fails. -/
theorem encOffTResult : Obligations.EncOffTResult := by
  unfold Obligations.EncOffTResult
  refine ⟨selects_of_decode fun w r hop => by simp [decode, hop], fun s t => ⟨fun h => ?_, fun h => ?_⟩⟩
  · rw [← tempOffsetTarget_eq]
    exact ⟨_, exec_encOffT_of_inRange s h, fun hCfg => tempOffByte_roundsTo (congrArg tempRounding hCfg) h,
      fun hCfg => tempOffByte_roundsTo (congrArg tempRounding hCfg) h,
      fun hCfg => tempOffByte_roundsTo (congrArg tempRounding hCfg) h⟩
  · exact exec_encOffT_of_outOfRange s h

/-- Settles O35: the byte is a function of `TEMP_OFF_ROUND` and the offset, and `TEMP_OFFSET_TARGET` selects the address alone. -/
theorem tempTargetParameterMovesOnlyAddress : Obligations.TempTargetParameterMovesOnlyAddress := by
  unfold Obligations.TempTargetParameterMovesOnlyAddress
  refine ⟨rfl, fun s t h => ?_⟩
  exact ⟨tempOffByte s.cfg.tempOffRound t, _, _, exec_encOffT_of_inRange _ h, rfl, exec_encOffT_of_inRange _ h, rfl⟩

end Sys2Proof.Machine
end

section
/-! PROOFS. Which operand values end an operation in `E_RANGE` (R221), and which are refused (R223): an operand outside both lists
completes without an error, so each list is exact. -/

namespace Sys2Proof.Machine

theorem lt_or_gt_of_not_between {α : Type} [LinearOrder α] {a x b : α} (h : ¬ (a ≤ x ∧ x ≤ b)) : x < a ∨ b < x :=
  (not_and_or.1 h).imp not_le.1 not_le.1

/-- The causes of `E_RANGE` (R221). -/
def RaisesRange (i : Instr) : Prop :=
  (∃ os, i = .encOs os ∧ ¬ (0 ≤ os ∧ os ≤ 7)) ∨ (∃ os a r c, i = .encCtrl1 os a r c ∧ ¬ (0 ≤ os ∧ os ≤ 7)) ∨
  (∃ p, i = .encOffP p ∧ ¬ (-512 ≤ p ∧ p ≤ 508)) ∨ (∃ t, i = .encOffT t ∧ ¬ (-8 ≤ t ∧ t ≤ 127 / 16))

/-- The operand values that are refused under the parameters `c` (R223). -/
def RefusesOperand (c : Config) (i : Instr) : Prop :=
  (∃ p, i = .encBarIn p ∧ (p < 0 ∨ (0xFFFF < p / 2 ∧ c.barInOverflow = .refuse))) ∨
  (∃ h, i = .encOffH h ∧ ¬ (-128 ≤ h ∧ h ≤ 127))

theorem exec_of_raisesRange {i : Instr} (s : State) (h : RaisesRange i) :
    exec i s = .next { s with out := errorResult 0b01 } := by
  rcases h with ⟨os, rfl, hOut⟩ | ⟨os, alt, rst, active, rfl, hOut⟩ | ⟨p, rfl, hOut⟩ | ⟨t, rfl, hOut⟩
  · exact exec_encOs_of_outOfRange s (lt_or_gt_of_not_between hOut)
  · exact exec_encCtrl1_of_outOfRange s alt rst active (lt_or_gt_of_not_between hOut)
  · exact exec_encOffP_of_outOfRange s (lt_or_gt_of_not_between hOut)
  · exact exec_encOffT_of_outOfRange s (lt_or_gt_of_not_between hOut)

theorem exec_of_refusesOperand {i : Instr} {s : State} (h : RefusesOperand s.cfg i) : ∃ x, exec i s = .refused x := by
  rcases h with ⟨p, rfl, hNeg | ⟨hWide, hCfg⟩⟩ | ⟨m, rfl, hOut⟩
  · exact ⟨_, exec_encBarIn_of_neg s hNeg⟩
  · exact ⟨_, exec_encBarIn_of_refuse s (by omega) hCfg⟩
  · exact ⟨_, exec_encOffH_of_outOfRange s (lt_or_gt_of_not_between hOut)⟩

/-- ENC_BAR_IN outside R223(a) and (b): the half fits 16 bits, or the parameter wraps it. -/
theorem exec_encBarIn_of_not_refused {s : State} {p : Int}
    (h : ¬ (p < 0 ∨ (0xFFFF < p / 2 ∧ s.cfg.barInOverflow = .refuse))) :
    ∃ v, exec (.encBarIn p) s = .next { s with out := barInResult v } := by
  obtain ⟨hNonneg, hFits⟩ := not_or.1 h
  by_cases hWide : p ≤ 131071
  · exact ⟨_, exec_encBarIn_of_fits s ⟨not_lt.1 hNonneg, hWide⟩⟩
  · cases hCfg : s.cfg.barInOverflow with
    | wrap => exact ⟨_, exec_encBarIn_of_wrap s (by omega) hCfg⟩
    | refuse => exact absurd ⟨by omega, hCfg⟩ hFits

/-- An operation whose operand is on neither list completes without an error. -/
theorem exec_of_operand_accepted {i : Instr} {s : State} (hRange : ¬ RaisesRange i) (hRefuse : ¬ RefusesOperand s.cfg i) :
    ∃ o : Outputs, exec i s = .next { s with out := o } ∧ o.err = some 0b00 := by
  cases i with
  | encOs os =>
    have hIn : 0 ≤ os ∧ os ≤ 7 := not_not.1 fun hOut => hRange (.inl ⟨os, rfl, hOut⟩)
    exact ⟨_, exec_encOs_of_inRange s hIn, rfl⟩
  | encCtrl1 os alt rst active =>
    have hIn : 0 ≤ os ∧ os ≤ 7 := not_not.1 fun hOut => hRange (.inr (.inl ⟨os, alt, rst, active, rfl, hOut⟩))
    exact ⟨_, exec_encCtrl1_of_inRange s alt rst active hIn, rfl⟩
  | encOffP p =>
    have hIn : -512 ≤ p ∧ p ≤ 508 := not_not.1 fun hOut => hRange (.inr (.inr (.inl ⟨p, rfl, hOut⟩)))
    exact ⟨_, exec_encOffP_of_inRange s hIn, rfl⟩
  | encOffT t =>
    have hIn : -8 ≤ t ∧ t ≤ 127 / 16 := not_not.1 fun hOut => hRange (.inr (.inr (.inr ⟨t, rfl, hOut⟩)))
    exact ⟨_, exec_encOffT_of_inRange s hIn, rfl⟩
  | encBarIn p =>
    obtain ⟨v, hv⟩ := exec_encBarIn_of_not_refused fun hOut => hRefuse (.inl ⟨p, rfl, hOut⟩)
    exact ⟨_, hv, rfl⟩
  | encOffH m =>
    have hIn : -128 ≤ m ∧ m ≤ 127 := not_not.1 fun hOut => hRefuse (.inr ⟨m, rfl, hOut⟩)
    exact ⟨_, exec_encOffH_of_inRange s hIn, rfl⟩
  | _ => exact ⟨_, rfl, rfl⟩

theorem exec_eq_rangeError_iff (i : Instr) (s : State) :
    exec i s = .next { s with out := errorResult 0b01 } ↔ RaisesRange i := by
  refine ⟨fun hErr => ?_, exec_of_raisesRange s⟩
  by_contra hRange
  by_cases hRefuse : RefusesOperand s.cfg i
  · obtain ⟨x, hx⟩ := exec_of_refusesOperand hRefuse
    exact nomatch hx.symm.trans hErr
  · obtain ⟨o, ho, hSucceeded⟩ := exec_of_operand_accepted hRange hRefuse
    have hOut : o = errorResult 0b01 := congrArg State.out (Host.Outcome.next.inj (ho.symm.trans hErr))
    rw [hOut] at hSucceeded
    exact absurd hSucceeded (by decide)

theorem exec_next_iff (i : Instr) (s : State) : (∃ t, exec i s = .next t) ↔ ¬ RefusesOperand s.cfg i := by
  constructor
  · rintro ⟨t, ht⟩ hRefuse
    obtain ⟨x, hx⟩ := exec_of_refusesOperand hRefuse
    exact nomatch hx.symm.trans ht
  · intro hRefuse
    by_cases hRange : RaisesRange i
    · exact ⟨_, exec_of_raisesRange s hRange⟩
    · obtain ⟨o, ho, -⟩ := exec_of_operand_accepted hRange hRefuse
      exact ⟨_, ho⟩

/-- Settles O43: an operand on R221's list drives the error alone; any other is refused or completes with `ERR = 0b00`. -/
theorem rangeErrorCauses : Obligations.RangeErrorCauses := by
  unfold Obligations.RangeErrorCauses
  exact exec_eq_rangeError_iff

/-- Settles O44: the operands on R223's list have no next state and all others have one; an operation without a next state is
refused, since nothing faults. -/
theorem refusedOperandsExactly : Obligations.RefusedOperandsExactly := by
  unfold Obligations.RefusedOperandsExactly
  refine fun i s => ⟨exec_next_iff i s, fun hNone => ?_⟩
  rcases exec_cases i s with ⟨o, ho, -⟩ | hRefused
  · exact absurd ⟨_, ho⟩ hNone
  · exact hRefused

end Sys2Proof.Machine
end

section
/-! PROOFS. The three writes of a measurement (R238 to R240). A step evaluates the operation whose encoding stands on the ports, then
the host writes the encoder's bytes and presents the next operation. -/

namespace Sys2Proof.Machine

/-! The operation on the ports is the one a step evaluates. -/

theorem decode_encode {w : Nat} {i : Instr} (h : i.WellFormed w) : decode w (encode w i) = .ok i := by
  cases i with
  | encOs os => exact congrArg (fun v => Except.ok (Instr.encOs v)) (intOperand_intPort w os h)
  | encCtrl1 os alt rst active =>
    exact congrArg (fun v => Except.ok (Instr.encCtrl1 v alt rst active)) (intOperand_intPort w os h)
  | encBarIn p => exact congrArg (fun v => Except.ok (Instr.encBarIn v)) (intOperand_intPort w p h)
  | encOffH m => exact congrArg (fun v => Except.ok (Instr.encOffH v)) (intOperand_intPort w m h)
  | encOffP p => exact congrArg (fun v => Except.ok (Instr.encOffP v)) (intOperand_intPort w p h)
  | _ => rfl

theorem step_of_encode {s : State} {i : Instr} {o : Outputs} (hReq : s.req = encode s.cfg.wInt i)
    (hFits : i.WellFormed s.cfg.wInt) (hExec : exec i s = .next { s with out := o }) :
    step s = .next (react (s.setOut o)) := by
  have hDecode : decode s.cfg.wInt s.req = .ok i := hReq ▸ decode_encode hFits
  exact step_of_evaluate ((evaluate_of_decode hDecode).trans hExec)

/-! The host's reaction in the three phases of the configuration, as a function of what the encoder drove. -/

section Reactions

variable {s : State} {o : Outputs} {os : IntPort} {mode : PressureMode} {bytes : List Byte}

theorem writeEncoded_setOut_ok (hOut : o.encoded = .ok bytes) (hBus : (busAnswer s).1 = none) :
    writeEncoded (s.setOut o) = (.ok (), (busWrite bytes (s.setOut o)).2) :=
  writeEncoded_ok (s.setOut o) bytes hOut ((busAnswer_setOut_fst s o).trans hBus)

theorem busWrite_setOut_trace (hBus : (busAnswer s).1 = none) :
    (busWrite bytes (s.setOut o)).2.trace = s.trace ++ [.write bytes none] := by
  rw [busWrite_trace, busAnswer_setOut_fst, hBus, State.setOut_trace]

theorem react_configMode_of_error {e : CallError} (hPhase : s.phase = .configMode os mode) (hOut : o.encoded = .error e) :
    react (s.setOut o) = failCall e (s.setOut o) := by
  simp only [react, State.setOut_phase, hPhase, writeEncoded_error (s.setOut o) e hOut]

theorem react_configMode_of_written (hPhase : s.phase = .configMode os mode) (hOut : o.encoded = .ok bytes)
    (hBus : (busAnswer s).1 = none) :
    react (s.setOut o) = (busWrite bytes (s.setOut o)).2.present (.configEvent os mode) (.encEvent true true) := by
  simp only [react, State.setOut_phase, hPhase, writeEncoded_setOut_ok hOut hBus]

theorem react_configEvent_of_written (hPhase : s.phase = .configEvent os mode) (hOut : o.encoded = .ok bytes)
    (hBus : (busAnswer s).1 = none) :
    react (s.setOut o) = (busWrite bytes (s.setOut o)).2.present (.configActive os mode)
      (.encCtrl1 (intOperand s.cfg.wInt os) mode.isAltimeter false true) := by
  simp only [react, State.setOut_phase, hPhase, writeEncoded_setOut_ok hOut hBus, busWrite_cfg, State.setOut_cfg]

theorem react_configActive_of_written (hPhase : s.phase = .configActive os mode) (hOut : o.encoded = .ok bytes)
    (hBus : (busAnswer s).1 = none) :
    react (s.setOut o) = pollStatus mode 0 (busWrite bytes (s.setOut o)).2 := by
  simp only [react, State.setOut_phase, hPhase, writeEncoded_setOut_ok hOut hBus]

/-- The third write and the first turn of the poll, with the bus's two answers and the status byte listed. -/
theorem react_configActive_of_listed {v : Byte} {replies : List (Option Nat)} {devBytes : List Byte}
    (hPhase : s.phase = .configActive os mode) (hOut : o.encoded = .ok bytes)
    (hReplies : s.busReplies = none :: none :: replies) (hDev : s.devBytes = v :: devBytes) :
    react (s.setOut o) =
      { s with out := o, busReplies := replies, devBytes := devBytes, phase := .polling mode 1, cursor := some 0x00,
               req := encode s.cfg.wInt (.decStatus v),
               trace := s.trace ++ [.write bytes none, .sleep s.cfg.pollInterval, .readByte 0x00 v] } := by
  have hBus : (busAnswer s).1 = none := by rw [busAnswer_of_listed s _ _ hReplies]
  have hWrite := congrArg Prod.snd (busWrite_of_listed (s.setOut o) bytes none (none :: replies) hReplies)
  have hLeft : (busWrite bytes (s.setOut o)).2.busReplies = none :: replies := by rw [hWrite]
  have hDevLeft : (busWrite bytes (s.setOut o)).2.devBytes = v :: devBytes := by simpa using hDev
  rw [react_configActive_of_written hPhase hOut hBus, pollStatus_of_listed _ mode 0 v replies devBytes hLeft hDevLeft, hWrite]
  simp [State.setOut]

end Reactions

theorem isAltimeter_eq_beq (mode : PressureMode) : mode.isAltimeter = (mode == .altimeter) := by cases mode <;> rfl

/-- The byte of ENC_CTRL1 with the active bit is the byte without it, bit 0 set (R240). -/
theorem ctrl1Byte_active (os : Int) (alt rst : Bool) : ctrl1Byte os alt rst true = ctrl1Byte os alt rst false ||| 0x01 := by
  simp [ctrl1Byte, sbybField, flagByte]

/-- The first write's byte in numbers (R238). -/
theorem modeByte_toNat {os : Int} (mode : PressureMode) (h : 0 ≤ os ∧ os ≤ 7) :
    ((ctrl1Byte os (mode == .altimeter) false false).toNat : Int) = (if mode = .altimeter then 0x80 else 0) + os * 8 := by
  simpa using ctrl1Byte_toNat (mode == .altimeter) false false h

/-- Settles O47: out of range the encoder drives the error and the host ends the call without a bus access; in range it writes the
encoder's byte and goes on to the event flags. -/
theorem firstWriteSetsModeAndOversample : Obligations.FirstWriteSetsModeAndOversample := by
  unfold Obligations.FirstWriteSetsModeAndOversample
  intro s os mode hPhase hReq
  have hFits := fitsIntPort_intOperand s.cfg.wInt os
  refine ⟨fun hOut => ?_, fun hIn hBus => ?_⟩
  · have hStep := step_of_encode hReq hFits
      (exec_encCtrl1_of_outOfRange s (mode == .altimeter) false false (lt_or_gt_of_not_between hOut))
    rw [react_configMode_of_error hPhase encoded_errRange] at hStep
    exact ⟨_, hStep, failCall_results _ _, failCall_trace _ _⟩
  · have hStep := step_of_encode hReq hFits (exec_encCtrl1_of_inRange s (mode == .altimeter) false false hIn)
    rw [react_configMode_of_written hPhase (encoded_byteResult _ _) hBus] at hStep
    refine ⟨_, _, hStep, modeByte_toNat mode hIn, busWrite_setOut_trace hBus, ?_, ?_, rfl, ?_⟩ <;> simp

/-- Settles O48: the encoder's byte is 0x07, and the host goes on to the active bit. -/
theorem secondWriteEnablesEvents : Obligations.SecondWriteEnablesEvents := by
  unfold Obligations.SecondWriteEnablesEvents
  intro s os mode hPhase hReq hBus
  have hExec : exec (.encEvent true true) s = .next { s with out := byteResult 0x13 0x07 } := exec_encEvent true true s
  have hStep := step_of_encode hReq rfl hExec
  rw [react_configEvent_of_written hPhase (encoded_byteResult _ _) hBus] at hStep
  refine ⟨_, hStep, busWrite_setOut_trace hBus, ?_, ?_, rfl, ?_⟩ <;> simp [isAltimeter_eq_beq]

/-- Settles O49: the two calls of ENC_CTRL1 differ in the active bit alone. -/
theorem thirdWriteActivates : Obligations.ThirdWriteActivates := by
  unfold Obligations.ThirdWriteActivates
  rintro s os mode v hPhase hReq hIn ⟨replies, hReplies⟩ ⟨devBytes, hDev⟩
  have hStep := step_of_encode hReq (fitsIntPort_intOperand s.cfg.wInt os)
    (exec_encCtrl1_of_inRange s (mode == .altimeter) false true hIn)
  rw [react_configActive_of_listed hPhase (encoded_byteResult _ _) hReplies hDev, ctrl1Byte_active] at hStep
  exact ⟨_, _, hStep, exec_encCtrl1_of_inRange s (mode == .altimeter) false false hIn, rfl, rfl, rfl, rfl, rfl⟩

end Sys2Proof.Machine
end

section
/-! PROOFS. What an operation that completes drives, said once (the "drives" column of R71), and that the bytes it leaves for the host to
write are of the contract (R238 to R240, R245). -/

namespace Sys2Proof.Machine

/-! The encoders leave the bits that none of them assigns at 0 (R130(e)). -/

theorem osField_and_unassigned {os : Int} (h : 0 ≤ os ∧ os ≤ 7) : osField os &&& 0x42 = 0 :=
  osField_and_flagByte (v := 0x42) h (by decide) true

theorem flagByte_and_unassigned {v w : Byte} (h : v &&& w = 0) (flag : Bool) : flagByte flag v &&& w = 0 :=
  flagByte_and_flagByte h flag true

theorem ctrl1Byte_and_unassigned {os : Int} (alt rst active : Bool) (h : 0 ≤ os ∧ os ≤ 7) :
    ctrl1Byte os alt rst active &&& 0x42 = 0 :=
  or_and_eq_zero
    (or_and_eq_zero (or_and_eq_zero (flagByte_and_unassigned (by decide) alt) (osField_and_unassigned h))
      (flagByte_and_unassigned (by decide) rst))
    (flagByte_and_unassigned (by decide) active)

theorem eventByte_and_unassigned (temp pres : Bool) :
    (flagByte temp 0x01 ||| flagByte pres 0x02 ||| flagByte (temp || pres) 0x04) &&& 0xF8 = 0 :=
  or_and_eq_zero
    (or_and_eq_zero (flagByte_and_unassigned (by decide) temp) (flagByte_and_unassigned (by decide) pres))
    (flagByte_and_unassigned (by decide) (temp || pres))

theorem writeLegal_tempOffset (target : TempOffsetTarget) (y : Byte) : WriteLegal [tempOffsetTarget target, y] := by
  cases target with
  | offTemp => exact .offset _ y (.inr (.inl rfl))
  | offPres => exact .offset _ y (.inl rfl)

/-! What an operation that completes put on the ports, said once. -/

/-- The results of the "drives" column (R71), a byte going where the contract lets it be written. -/
inductive ResultOf : DriveGroup → Outputs → Prop
  | decoder (io : BitVec 32) (fo : BitVec 4) (raw : Raw) : ResultOf .decoder (decoderResult io fo raw)
  | oneByte {a y : Byte} (h : WriteLegal [a, y]) : ResultOf .oneByte (byteResult a y)
  | twoBytes (v : BitVec 16) : ResultOf .twoBytes (barInResult v)
  | ctrlFields (os : BitVec 3) (alt rst sbyb : Bool) : ResultOf .ctrlFields (ctrlResult os alt rst sbyb)
  | statusFields (ptdr pdr tdr : Bool) : ResultOf .statusFields (statusResult ptdr pdr tdr)
  | integer (io : BitVec 32) : ResultOf .integer (integerResult io)

/-- An operation that answers a next state drove its own group of ports, or raised `E_RANGE`. -/
theorem exec_result {i : Instr} {s t : State} (h : exec i s = .next t) :
    t.out = errorResult 0b01 ∨ ResultOf (driveGroupOf i) t.out := by
  by_cases hRange : RaisesRange i
  · cases h.symm.trans (exec_of_raisesRange s hRange)
    exact .inl rfl
  have hRefuse := (exec_next_iff i s).1 ⟨t, h⟩
  right
  cases i with
  | decQ16_4 b0 b1 b2 => cases h; exact .decoder _ _ _
  | decQ18_2 b0 b1 b2 => cases h; exact .decoder _ _ _
  | decQ8_4 b0 b1 => cases h; exact .decoder _ _ _
  | encOs os =>
    have hIn : 0 ≤ os ∧ os ≤ 7 := not_not.1 fun hOut => hRange (.inl ⟨os, rfl, hOut⟩)
    cases h.symm.trans (exec_encOs_of_inRange s hIn)
    exact .oneByte (.ctrlReg1 _ (osField_and_unassigned hIn))
  | encAlt alt =>
    cases h
    exact .oneByte (.ctrlReg1 _ (flagByte_and_unassigned (by decide) alt))
  | encRst rst =>
    cases h
    exact .oneByte (.ctrlReg1 _ (flagByte_and_unassigned (by decide) rst))
  | encSbyb active =>
    cases h
    exact .oneByte (.ctrlReg1 _ (flagByte_and_unassigned (by decide) active))
  | encEvent temp pres =>
    cases h
    exact .oneByte (.ptDataCfg _ (eventByte_and_unassigned temp pres))
  | encCtrl1 os alt rst active =>
    have hIn : 0 ≤ os ∧ os ≤ 7 := not_not.1 fun hOut => hRange (.inr (.inl ⟨os, alt, rst, active, rfl, hOut⟩))
    cases h.symm.trans (exec_encCtrl1_of_inRange s alt rst active hIn)
    exact .oneByte (.ctrlReg1 _ (ctrl1Byte_and_unassigned alt rst active hIn))
  | decCtrl1 b => cases h; exact .ctrlFields _ _ _ _
  | decStatus b => cases h; exact .statusFields _ _ _
  | regWidth addr => cases h; exact .integer _
  | encBarIn p =>
    obtain ⟨v, hv⟩ := exec_encBarIn_of_not_refused fun hOut => hRefuse (.inl ⟨p, rfl, hOut⟩)
    cases h.symm.trans hv
    exact .twoBytes v
  | defSlp => cases h; exact .integer _
  | encOffH m =>
    have hIn : -128 ≤ m ∧ m ≤ 127 := not_not.1 fun hOut => hRefuse (.inr ⟨m, rfl, hOut⟩)
    cases h.symm.trans (exec_encOffH_of_inRange s hIn)
    exact .oneByte (.offset _ _ (.inr (.inr rfl)))
  | encOffP p =>
    have hIn : -512 ≤ p ∧ p ≤ 508 := not_not.1 fun hOut => hRange (.inr (.inr (.inl ⟨p, rfl, hOut⟩)))
    cases h.symm.trans (exec_encOffP_of_inRange s hIn)
    exact .oneByte (.offset _ _ (.inl rfl))
  | encOffT q =>
    have hIn : -8 ≤ q ∧ q ≤ 127 / 16 := not_not.1 fun hOut => hRange (.inr (.inr (.inr ⟨q, rfl, hOut⟩)))
    cases h.symm.trans (exec_encOffT_of_inRange s hIn)
    exact .oneByte (writeLegal_tempOffset _ _)

/-! The host has nothing to write, or bytes of the contract. -/

def Outputs.WritesLegal (o : Outputs) : Prop := ∀ bytes, o.encoded = .ok bytes → WriteLegal bytes

theorem writesLegal_of_error {o : Outputs} {e : CallError} (h : o.encoded = .error e) : o.WritesLegal :=
  fun _ hOk => nomatch h.symm.trans hOk

theorem ResultOf.writesLegal {g : DriveGroup} {o : Outputs} (h : ResultOf g o) : o.WritesLegal := by
  cases h with
  | oneByte hWrite =>
    rintro _ ⟨⟩
    exact hWrite
  | twoBytes v =>
    rintro _ ⟨⟩
    exact .barIn _ _
  | decoder | ctrlFields | statusFields | integer => exact writesLegal_of_error (e := .noResult) rfl

theorem exec_writesLegal {i : Instr} {s t : State} (h : exec i s = .next t) : t.out.WritesLegal := by
  rcases exec_result h with hError | hResult
  · rw [hError]
    exact writesLegal_of_error encoded_errRange
  · exact hResult.writesLegal

theorem evaluate_writesLegal {s t : State} (h : evaluate s = .next t) : t.out.WritesLegal := by
  cases hDecode : decode s.cfg.wInt s.req with
  | ok i => exact exec_writesLegal ((evaluate_of_decode hDecode).symm.trans h)
  | error e =>
    cases h.symm.trans (evaluate_of_decode_error hDecode)
    exact writesLegal_of_error (e := .noResult) rfl

end Sys2Proof.Machine
end

section
/-! PROOFS. What the host's reaction can do, said once: it begins a waiting call, goes on to the next request of the call under way, or
ends that call, after bus actions of the contract. The machine's invariant, the order of the stages and the growth of the logs follow. -/

namespace Sys2Proof.Machine

/-! A step is the operation on the ports, then the reaction. -/

theorem step_of_evaluate_refused {s : State} {x : Refusal} (h : evaluate s = .refused x) : step s = .refused x := by
  rw [step, h]

/-- Settles O5: the evaluation is exec of the decoded instruction, or the error of a reserved code. -/
theorem stepRunsDecodedInstruction : Obligations.StepRunsDecodedInstruction := by
  unfold Obligations.StepRunsDecodedInstruction
  refine ⟨fun s i hDecode => ⟨fun t hExec => ?_, fun x hExec => ?_⟩, fun s e hDecode => ?_⟩
  · exact step_of_evaluate ((evaluate_of_decode hDecode).trans hExec)
  · exact step_of_evaluate_refused ((evaluate_of_decode hDecode).trans hExec)
  · exact step_of_evaluate (evaluate_of_decode_error hDecode)

/-! The bus actions of a reaction. -/

/-- An action of the contract, or the write of what an encoder put on the ports. -/
def Outputs.Allows (o : Outputs) (e : BusEvent) : Prop :=
  e.Legal ∨ ∃ bytes error, e = .write bytes error ∧ o.encoded = .ok bytes

/-- From `s` to `u` the host did the actions `l` on the bus and nothing else. -/
structure BusActs (s : State) (l : List BusEvent) (u : State) : Prop where
  cfg : u.cfg = s.cfg
  req : u.req = s.req
  out : u.out = s.out
  phase : u.phase = s.phase
  calls : u.calls = s.calls
  results : u.results = s.results
  trace : u.trace = s.trace ++ l
  allowed : ∀ e ∈ l, s.out.Allows e

theorem busActs_refl (s : State) : BusActs s [] s :=
  ⟨rfl, rfl, rfl, rfl, rfl, rfl, (List.append_nil _).symm, fun _ h => nomatch h⟩

theorem BusActs.trans {s u v : State} {l m : List BusEvent} (h : BusActs s l u) (k : BusActs u m v) : BusActs s (l ++ m) v where
  cfg := k.cfg.trans h.cfg
  req := k.req.trans h.req
  out := k.out.trans h.out
  phase := k.phase.trans h.phase
  calls := k.calls.trans h.calls
  results := k.results.trans h.results
  trace := by rw [k.trace, h.trace, List.append_assoc]
  allowed e he := (List.mem_append.1 he).elim (h.allowed e) fun hm => h.out ▸ k.allowed e hm

theorem busActs_busWrite {s : State} {bytes : List Byte} (h : s.out.Allows (.write bytes (busAnswer s).1)) :
    BusActs s [BusEvent.write bytes (busAnswer s).1] (busWrite bytes s).2 where
  cfg := busWrite_cfg s bytes
  req := busWrite_req s bytes
  out := busWrite_out s bytes
  phase := busWrite_phase s bytes
  calls := busWrite_calls s bytes
  results := busWrite_results s bytes
  trace := busWrite_trace s bytes
  allowed := List.forall_mem_singleton.2 h

/-- Sleeping and reading STATUS, as one turn of the poll does (R241). -/
theorem busActs_pollRead {s t : State} {e : BusEvent}
    (ht : t = (busReadByte 0x00 (s.logEvent (.sleep s.cfg.pollInterval))).2)
    (hTrace : t.trace = s.trace ++ [BusEvent.sleep s.cfg.pollInterval, e]) (hLegal : e.Legal) :
    BusActs s [BusEvent.sleep s.cfg.pollInterval, e] t where
  cfg := by simp [ht]
  req := by simp [ht]
  out := by simp [ht]
  phase := by simp [ht]
  calls := by simp [ht]
  results := by simp [ht]
  trace := hTrace
  allowed := List.forall_mem_cons.2 ⟨.inl trivial, List.forall_mem_singleton.2 (.inl hLegal)⟩

/-- Setting the cursor and reading the block (R242). -/
theorem busActs_blockRead {s t : State} {e : BusEvent}
    (ht : t = (busReadBytes 6 (busWrite [0x00] s).2).2) (hTrace : t.trace = s.trace ++ [BusEvent.write [0x00] none, e])
    (hLegal : e.Legal) :
    BusActs s [BusEvent.write [0x00] none, e] t where
  cfg := by simp [ht]
  req := by simp [ht]
  out := by simp [ht]
  phase := by simp [ht]
  calls := by simp [ht]
  results := by simp [ht]
  trace := hTrace
  allowed := List.forall_mem_cons.2 ⟨.inl .cursor, List.forall_mem_singleton.2 (.inl hLegal)⟩

/-! The host's shared moves, as bus actions and what they end in. -/

theorem writeEncoded_acts (s : State) :
    (∃ bytes l u, s.out.encoded = .ok bytes ∧ BusActs s l u ∧ writeEncoded s = (.ok (), u)) ∨
    (∃ e l u, BusActs s l u ∧ writeEncoded s = (.error e, u)) := by
  rcases writeEncoded_cases s with ⟨e, -, hw⟩ | ⟨bytes, hOut, -, hw⟩ | ⟨bytes, e, hOut, -, hw⟩
  · exact .inr ⟨e, [], s, busActs_refl s, hw⟩
  · exact .inl ⟨bytes, _, _, hOut, busActs_busWrite (.inr ⟨bytes, _, rfl, hOut⟩), hw⟩
  · exact .inr ⟨_, _, _, busActs_busWrite (.inr ⟨bytes, _, rfl, hOut⟩), hw⟩

theorem pollStatus_acts (s : State) (mode : PressureMode) (reads : Nat) :
    (∃ v l u, BusActs s l u ∧ pollStatus mode reads s = u.present (.polling mode (reads + 1)) (.decStatus v)) ∨
    (∃ e l u, BusActs s l u ∧ pollStatus mode reads s = failCall e u) := by
  rcases pollStatus_cases s mode reads with ⟨e, t, ht, hTrace, hp⟩ | ⟨v, t, ht, hTrace, hp⟩
  · exact .inr ⟨_, _, t, busActs_pollRead ht hTrace rfl, hp⟩
  · exact .inl ⟨v, _, t, busActs_pollRead ht hTrace rfl, hp⟩

theorem readMeasurement_acts (s : State) (mode : PressureMode) :
    (∃ b l u, BusActs s l u ∧ readMeasurement mode s = u.present (.convertMain mode b) (mode.decoder b)) ∨
    (∃ e l u, BusActs s l u ∧ readMeasurement mode s = failCall e u) := by
  rcases readMeasurement_cases s mode with ⟨e, -, hp⟩ | ⟨e, t, ht, -, hTrace, hp⟩ | ⟨b, t, ht, -, hTrace, hp⟩
  · exact .inr ⟨_, _, _, busActs_busWrite (.inl .cursor), hp⟩
  · exact .inr ⟨_, _, t, busActs_blockRead ht hTrace ⟨rfl, rfl⟩, hp⟩
  · exact .inl ⟨b, _, t, busActs_blockRead ht hTrace ⟨rfl, rfl⟩, hp⟩

/-! The inversion of the host's reaction. -/

/-- The host has no call under way. -/
def Stage.atRest : Stage → Bool
  | .idle | .done | .failed => true
  | .configuring | .polling | .reading | .other => false

/-- The phase and the request that follow in the call under way, once the phase's own request was answered. -/
inductive NextRequest (s : State) : Phase → Instr → Prop
  | event {os mode bytes} (hPhase : s.phase = .configMode os mode) (hOut : s.out.encoded = .ok bytes) :
      NextRequest s (.configEvent os mode) (.encEvent true true)
  | active {os mode} (hPhase : s.phase = .configEvent os mode) :
      NextRequest s (.configActive os mode) (.encCtrl1 (intOperand s.cfg.wInt os) mode.isAltimeter false true)
  | firstPoll {os mode v} (hPhase : s.phase = .configActive os mode) : NextRequest s (.polling mode 1) (.decStatus v)
  | nextPoll {mode reads v} (hPhase : s.phase = .polling mode reads) (hBound : pollExhausted s.cfg.pollMax reads = false) :
      NextRequest s (.polling mode (reads + 1)) (.decStatus v)
  | main {mode reads b} (hPhase : s.phase = .polling mode reads) : NextRequest s (.convertMain mode b) (mode.decoder b)
  | temp {mode b value} (hPhase : s.phase = .convertMain mode b) :
      NextRequest s (.convertTemp mode b value) (.decQ8_4 b.tMsb b.tLsb)

/-- What a reaction from `s` can end in. -/
inductive Reaction (s : State) : State → Prop
  | begins (hStage : s.phase.stage.atRest = true) : Reaction s (startNext s)
  | goesOn {l u ph i} (hBus : BusActs s l u) (hNext : NextRequest s ph i) : Reaction s (u.present ph i)
  | completes {l u r} (hBus : BusActs s l u) (hStage : s.phase.stage = .reading ∨ s.phase.stage = .other)
      (hResult : ∀ e, r ≠ .failed e) : Reaction s (complete r u)
  | fails {l u e} (hBus : BusActs s l u) (hStage : s.phase.stage.atRest = false) : Reaction s (failCall e u)

theorem finishWrite_reaction {s : State} (h : s.phase.stage = .other) : Reaction s (finishWrite s) := by
  unfold finishWrite
  rcases writeEncoded_acts s with ⟨_, _, u, -, hBus, hw⟩ | ⟨e, _, u, hBus, hw⟩
  · rw [hw]
    exact .completes hBus (.inr h) nofun
  · rw [hw]
    exact .fails hBus (by rw [h]; rfl)

theorem react_reaction (s : State) : Reaction s (react s) := by
  unfold react
  cases hPhase : s.phase with
  | idle => exact .begins (by rw [hPhase]; rfl)
  | done => exact .begins (by rw [hPhase]; rfl)
  | failed => exact .begins (by rw [hPhase]; rfl)
  | configMode os mode =>
    rcases writeEncoded_acts s with ⟨_, _, u, hOut, hBus, hw⟩ | ⟨e, _, u, hBus, hw⟩
    · simpa only [hw] using .goesOn hBus (.event hPhase hOut)
    · simpa only [hw] using .fails hBus (by rw [hPhase]; rfl)
  | configEvent os mode =>
    rcases writeEncoded_acts s with ⟨_, _, u, -, hBus, hw⟩ | ⟨e, _, u, hBus, hw⟩
    · simpa only [hw, hBus.cfg] using .goesOn hBus (.active hPhase)
    · simpa only [hw] using .fails hBus (by rw [hPhase]; rfl)
  | configActive os mode =>
    rcases writeEncoded_acts s with ⟨_, _, u, -, hBus, hw⟩ | ⟨e, _, u, hBus, hw⟩
    · rcases pollStatus_acts u mode 0 with ⟨v, _, t, hPoll, hp⟩ | ⟨e, _, t, hPoll, hp⟩
      · simpa only [hw, hp] using .goesOn (hBus.trans hPoll) (.firstPoll hPhase)
      · simpa only [hw, hp] using .fails (hBus.trans hPoll) (by rw [hPhase]; rfl)
    · simpa only [hw] using .fails hBus (by rw [hPhase]; rfl)
  | polling mode reads =>
    have hStage : s.phase.stage.atRest = false := by rw [hPhase]; rfl
    dsimp only
    split
    · rcases readMeasurement_acts s mode with ⟨b, _, t, hBus, hp⟩ | ⟨e, _, t, hBus, hp⟩
      · rw [hp]; exact .goesOn hBus (.main hPhase)
      · rw [hp]; exact .fails hBus hStage
    · cases hBound : pollExhausted s.cfg.pollMax reads with
      | true => exact .fails (busActs_refl s) hStage
      | false =>
        rcases pollStatus_acts s mode reads with ⟨v, _, t, hBus, hp⟩ | ⟨e, _, t, hBus, hp⟩
        · rw [hp]; exact .goesOn hBus (.nextPoll hPhase hBound)
        · rw [hp]; exact .fails hBus hStage
    · exact .fails (busActs_refl s) hStage
  | convertMain mode b =>
    dsimp only
    split
    · exact .goesOn (busActs_refl s) (.temp hPhase)
    · exact .fails (busActs_refl s) (by rw [hPhase]; rfl)
  | convertTemp mode b value =>
    dsimp only
    split
    · exact .completes (busActs_refl s) (.inl (by rw [hPhase]; rfl)) nofun
    · exact .fails (busActs_refl s) (by rw [hPhase]; rfl)
  | resetting =>
    have hStage : s.phase.stage = .other := by rw [hPhase]; rfl
    rcases writeEncoded_acts s with ⟨_, _, u, -, hBus, hw⟩ | ⟨e, _, u, hBus, hw⟩
    · simpa only [hw] using .completes hBus (.inr hStage) nofun
    · cases e with
      | bus e => simpa only [hw] using .completes hBus (.inr hStage) nofun
      | _ => simpa only [hw] using .fails hBus (by rw [hStage]; rfl)
  | gettingSeaLevel =>
    have hStage : s.phase.stage = .other := by rw [hPhase]; rfl
    dsimp only
    split
    · exact .completes (busActs_refl s) (.inr hStage) nofun
    · exact .fails (busActs_refl s) (by rw [hStage]; rfl)
  | requesting => exact .completes (busActs_refl s) (.inr (by rw [hPhase]; rfl)) nofun
  | settingSeaLevel pa => exact finishWrite_reaction (by rw [hPhase]; rfl)
  | compensatingAltitude metres => exact finishWrite_reaction (by rw [hPhase]; rfl)
  | compensatingPressure pa => exact finishWrite_reaction (by rw [hPhase]; rfl)
  | compensatingTemperature celsius => exact finishWrite_reaction (by rw [hPhase]; rfl)

/-! What follows from the inversion whatever the phase. -/

theorem startCall_begunAt (c : Call) (s : State) : c.BegunAt (startCall c s) := by
  cases c with
  | measure os mode => exact ⟨rfl, by rw [← isAltimeter_eq_beq]; rfl⟩
  | request r => exact ⟨rfl, rfl⟩
  | _ => exact ⟨rfl, rfl⟩

/-- Where no call is under way, the oldest waiting call begins or the host stays where it is. -/
theorem startNext_beginsNext (s : State) : BeginsNext s.phase.stage s (startNext s) := by
  rcases startNext_cases s with ⟨hCalls, hs⟩ | ⟨c, cs, hCalls, hs⟩
  · exact .inl ⟨hCalls, by rw [hs, hCalls], by rw [hs], by rw [hs]⟩
  · exact .inr ⟨c, cs, hCalls, by rw [hs, startCall_calls]; rfl, by rw [hs]; exact startCall_begunAt c _⟩

/-- After a call ended the next begins as it would have before the call's bus actions. -/
theorem BusActs.beginsNext {s u v : State} {l : List BusEvent} (hBus : BusActs s l u) (hCalls : v.calls = u.calls)
    (hReq : v.req = u.req) : BeginsNext v.phase.stage s (startNext v) := by
  have h := startNext_beginsNext v
  rw [BeginsNext, hCalls, hReq, hBus.calls, hBus.req] at h
  exact h

theorem BusActs.complete_endsDone {s u : State} {l : List BusEvent} {r : CallResult} (hBus : BusActs s l u)
    (hResult : ∀ e, r ≠ .failed e) : EndsDone s (complete r u) :=
  ⟨⟨r, by rw [complete_results, hBus.results], hResult⟩, hBus.beginsNext (v := u.endCall .done r) rfl rfl⟩

theorem BusActs.failCall_endsFailed {s u : State} {l : List BusEvent} (e : CallError) (hBus : BusActs s l u) :
    EndsFailed s (failCall e u) :=
  ⟨⟨e, by rw [failCall_results, hBus.results]⟩, hBus.beginsNext (v := u.endCall .failed (.failed e)) rfl rfl⟩

/-- The trace grows by actions that the outputs allow. -/
theorem Reaction.trace {s t : State} (h : Reaction s t) : ∃ l, t.trace = s.trace ++ l ∧ ∀ e ∈ l, s.out.Allows e := by
  cases h with
  | begins _ => exact ⟨[], by simp, nofun⟩
  | goesOn hBus _ => exact ⟨_, hBus.trace, hBus.allowed⟩
  | completes hBus _ _ => exact ⟨_, by rw [complete_trace, hBus.trace], hBus.allowed⟩
  | fails hBus _ => exact ⟨_, by rw [failCall_trace, hBus.trace], hBus.allowed⟩

/-! The invariant. -/

/-- A call that begins puts on the ports the request its phase asks for. -/
theorem startCall_coherent (c : Call) (s : State) : (startCall c s).Coherent := by
  cases c with
  | request r => trivial
  | _ => rfl

theorem startNext_coherent {s : State} (h : s.phase.stage.atRest = true) : (startNext s).Coherent := by
  rcases startNext_cases s with ⟨-, hs⟩ | ⟨c, cs, -, hs⟩
  · rw [hs, State.Coherent]
    cases hPhase : s.phase with
    | idle | done | failed => trivial
    | _ => rw [hPhase] at h; cases h
  · rw [hs]
    exact startCall_coherent c _

/-- ENC_CTRL1 put bytes on the ports, so its oversample code passed the check (R238). -/
theorem osInRange_of_encoded {s : State} {o : Outputs} {os : IntPort} {alt rst active : Bool} {bytes : List Byte}
    (hReq : s.req = encode s.cfg.wInt (.encCtrl1 (intOperand s.cfg.wInt os) alt rst active))
    (hEval : evaluate s = .next (s.setOut o)) (hOut : o.encoded = .ok bytes) :
    osInRange (intOperand s.cfg.wInt os) = true := by
  by_contra hRange
  have hExec := exec_of_raisesRange (i := .encCtrl1 (intOperand s.cfg.wInt os) alt rst active) s
    (.inr (.inl ⟨_, _, _, _, rfl, mt (osInRange_iff _).2 hRange⟩))
  have hFits : (Instr.encCtrl1 (intOperand s.cfg.wInt os) alt rst active).WellFormed s.cfg.wInt :=
    fitsIntPort_intOperand s.cfg.wInt os
  have hDecode := hReq ▸ decode_encode hFits
  have hError : o = errorResult 0b01 :=
    congrArg State.out (Host.Outcome.next.inj (hEval.symm.trans ((evaluate_of_decode hDecode).trans hExec)))
  rw [hError] at hOut
  cases hOut

theorem not_pollExhausted {pollMax : Option Nat} {reads m : Nat} (h : pollExhausted pollMax reads = false)
    (hMax : pollMax = some m) : reads < m := by
  subst hMax
  exact not_le.1 (of_decide_eq_false h)

/-- The next request of a call is the one its new phase asks for, and the clauses on the oversample code and on a bounded poll stand. -/
theorem NextRequest.coherent {s u : State} {o : Outputs} {l : List BusEvent} {ph : Phase} {i : Instr}
    (h : NextRequest (s.setOut o) ph i) (hBus : BusActs (s.setOut o) l u) (hs : s.Coherent)
    (hEval : evaluate s = .next (s.setOut o)) : (u.present ph i).Coherent := by
  have hCfg : u.cfg = s.cfg := hBus.cfg
  cases h with
  | event hPhase hOut =>
    rw [State.Coherent, show s.phase = _ from hPhase] at hs
    refine ⟨rfl, ?_⟩
    rw [State.present_cfg, hCfg]
    exact osInRange_of_encoded hs hEval hOut
  | active hPhase =>
    rw [State.Coherent, show s.phase = _ from hPhase] at hs
    simp only [State.Coherent, State.present_phase, State.present_cfg, State.present_req, State.setOut_cfg, hCfg]
    exact ⟨trivial, hs.2⟩
  | firstPoll _ => exact ⟨rfl, le_refl 1, fun m _ => le_max_right m 1⟩
  | nextPoll _ hBound =>
    refine ⟨rfl, Nat.le_add_left 1 _, fun m hMax => ?_⟩
    rw [State.present_cfg, hCfg] at hMax
    exact le_max_of_le_left (not_pollExhausted hBound hMax)
  | main _ => rfl
  | temp _ => rfl

/-- Before the first request no port is driven (log 4). -/
theorem undriven_legal : Outputs.undriven.Legal where
  errCode := nofun
  errorAlone _ := rfl
  byteCount := .inl ⟨rfl, rfl, rfl⟩
  addressValid := .inl ⟨rfl, rfl, rfl⟩

/-- Settles O1: no port is driven, the host is idle, and nothing was done on the bus. -/
theorem resetMeetsInvariant : Obligations.ResetMeetsInvariant := by
  unfold Obligations.ResetMeetsInvariant
  exact ⟨undriven_legal, trivial, nofun⟩

/-- Settles O2: the outputs are the evaluation's; the trace grows by the contract's actions, the writes among them being of an
encoder's bytes; and the host has put the request of its new phase on the ports. -/
theorem stepKeepsInvariant : Obligations.StepKeepsInvariant := by
  unfold Obligations.StepKeepsInvariant
  rintro s t ⟨-, hCoherent, hTrace⟩ hStep
  obtain ⟨o, hEval, hLegal, -, rfl⟩ := step_next_cases hStep
  have hReaction := react_reaction (s.setOut o)
  refine ⟨by rw [react_out]; exact hLegal, ?_, ?_⟩
  · generalize react (s.setOut o) = t at hReaction ⊢
    cases hReaction with
    | begins hStage => exact startNext_coherent hStage
    | goesOn hBus hNext => exact hNext.coherent hBus hCoherent hEval
    | completes hBus _ _ => exact startNext_coherent rfl
    | fails hBus _ => exact startNext_coherent rfl
  · obtain ⟨l, hGrown, hAllowed⟩ := hReaction.trace
    rw [hGrown]
    refine List.forall_mem_append.2 ⟨hTrace, fun e he => ?_⟩
    rcases hAllowed e he with hOfContract | ⟨bytes, error, rfl, hOut⟩
    · exact hOfContract
    · exact evaluate_writesLegal hEval bytes hOut

/-- Settles O46: each way a reaction can end is one the stage allows. -/
theorem stagesFollowContract : Obligations.StagesFollowContract := by
  unfold Obligations.StagesFollowContract
  intro s t hStep
  obtain ⟨o, -, -, -, rfl⟩ := step_next_cases hStep
  have hReaction := react_reaction (s.setOut o)
  generalize react (s.setOut o) = t at hReaction ⊢
  cases hReaction with
  | begins hStage =>
    have hNext : BeginsNext s.phase.stage s _ := startNext_beginsNext (s.setOut o)
    rw [State.setOut_phase] at hStage
    generalize s.phase.stage = g at hStage hNext ⊢
    cases g with
    | idle | done | failed => exact ⟨startNext_results _, startNext_trace _, hNext⟩
    | configuring | polling | reading | other => cases hStage
  | goesOn hBus hNext =>
    have hGoesOn : ∀ ph i, GoesOn s (State.present _ ph i) := fun _ _ => ⟨hBus.results, hBus.calls⟩
    cases hNext with
    | event hPhase _ | active hPhase | nextPoll hPhase _ =>
      rw [show s.phase = _ from hPhase]
      exact .inl ⟨hGoesOn _ _, .inl rfl⟩
    | firstPoll hPhase | main hPhase =>
      rw [show s.phase = _ from hPhase]
      exact .inl ⟨hGoesOn _ _, .inr rfl⟩
    | temp hPhase =>
      rw [show s.phase = _ from hPhase]
      exact .inl ⟨hGoesOn _ _, rfl⟩
  | completes hBus hStage hResult =>
    have hDone : EndsDone s _ := hBus.complete_endsDone hResult
    rw [State.setOut_phase] at hStage
    rcases hStage with hStage | hStage <;> rw [hStage]
    · exact .inr (.inl hDone)
    · exact .inl hDone
  | @fails _ _ e hBus hStage =>
    have hFailed : EndsFailed s (failCall e _) := hBus.failCall_endsFailed e
    rw [State.setOut_phase] at hStage
    generalize s.phase.stage = g at hStage ⊢
    cases g with
    | configuring | polling | other => exact .inr hFailed
    | reading => exact .inr (.inr hFailed)
    | idle | done | failed => cases hStage

/-! The logs and the waiting calls. -/

theorem Reaction.results {s t : State} (h : Reaction s t) : ∃ l, t.results = s.results ++ l ∧ l.length ≤ 1 := by
  cases h with
  | begins _ => exact ⟨[], by simp, Nat.zero_le 1⟩
  | goesOn hBus _ => exact ⟨[], by simp [hBus.results], Nat.zero_le 1⟩
  | completes hBus _ _ => exact ⟨_, by rw [complete_results, hBus.results], le_refl 1⟩
  | fails hBus _ => exact ⟨_, by rw [failCall_results, hBus.results], le_refl 1⟩

theorem Reaction.calls {s t : State} (h : Reaction s t) : t.calls = s.calls ∨ t.calls = s.calls.tail := by
  cases h with
  | begins _ => exact .inr (startNext_calls s)
  | goesOn hBus _ => exact .inl hBus.calls
  | completes hBus _ _ => exact .inr ((startNext_calls _).trans (congrArg List.tail hBus.calls))
  | fails hBus _ => exact .inr ((startNext_calls _).trans (congrArg List.tail hBus.calls))

/-- Settles O57: a reaction appends to the logs, takes none or the oldest of the waiting calls, and keeps the parameters. -/
theorem stepOnlyAppendsTraceAndResults : Obligations.StepOnlyAppendsTraceAndResults := by
  unfold Obligations.StepOnlyAppendsTraceAndResults
  intro s t hStep
  obtain ⟨o, -, -, -, rfl⟩ := step_next_cases hStep
  have hReaction := react_reaction (s.setOut o)
  obtain ⟨l, hTrace, -⟩ := hReaction.trace
  refine ⟨⟨l, hTrace⟩, hReaction.results, react_cfg _, ?_⟩
  rcases hReaction.calls with hCalls | hCalls
  · exact ⟨[], hCalls.symm, Nat.zero_le 1⟩
  · refine ⟨s.calls.take 1, ?_, List.length_take_le 1 _⟩
    rw [hCalls, ← List.drop_one]
    exact (List.take_append_drop 1 s.calls).symm

/-- Settles O60: the host hands the output ports to the caller and begins the next call. -/
theorem requestCallReturnsOutputs : Obligations.RequestCallReturnsOutputs := by
  unfold Obligations.RequestCallReturnsOutputs
  intro s hPhase
  refine ⟨fun u hEval => ?_, fun x hEval => step_of_evaluate_refused hEval⟩
  rcases evaluate_cases s with ⟨o, ho, -, -⟩ | ⟨r, hr⟩
  · cases hEval.symm.trans ho
    have hReact : react (s.setOut o) = complete (.outputs o) (s.setOut o) := by
      simp only [react, State.setOut_phase, hPhase, State.setOut_out]
    have hDone : EndsDone s (complete (.outputs o) (s.setOut o)) := (busActs_refl (s.setOut o)).complete_endsDone nofun
    refine ⟨_, step_of_evaluate ho, ?_⟩
    rw [hReact]
    exact ⟨complete_results _ _, complete_trace _ _, complete_busReplies _ _, complete_devBytes _ _, hDone.2⟩
  · exact nomatch hr.symm.trans hEval

end Sys2Proof.Machine
end

section
/-! PROOFS. The encoding (R71, R73 to R76): decoding and encoding undo each other on the ports an operation reads, and `OP` alone
selects a row of the table. -/

namespace Sys2Proof.Machine

/-- Settles O3: each operand is read back from the port it stands on, an integer because it fits `IA`. -/
theorem decodeOfEncode : Obligations.DecodeOfEncode := by
  unfold Obligations.DecodeOfEncode
  exact fun _ _ hFits => decode_encode hFits

/-- Settles O4: in each row the encoder puts back what the decoder took, an integer on the same `W_INT` wires. -/
theorem encodeOfDecodeKeepsReadPorts : Obligations.EncodeOfDecodeKeepsReadPorts := by
  unfold Obligations.EncodeOfDecodeKeepsReadPorts
  intro w r i hDecode
  unfold decode at hDecode
  split at hDecode
  case h_18 => cases hDecode
  all_goals
    next hOp =>
    cases hDecode
    refine ⟨BitVec.eq_of_toNat_eq hOp.symm, ?_, ?_⟩
    · simp [AgreeOnReads, AgreeOnIA, hOp, encode, intPort_intOperand]
    · simp [Instr.WellFormed, Instr.wf, fitsIntPort_intOperand]

/-! The rows of R71's table. -/

/-- Every instruction's mnemonic and code are a row of the table (R71). -/
theorem mem_opcodeTable (w : Nat) (i : Instr) : ⟨i.mnemonic, (encode w i).op⟩ ∈ opcodeTable := by
  cases i with
  | decQ16_4 b0 b1 b2 => exact Laws.TableRow.decQ16_4 b0 b1 b2 w
  | decQ18_2 b0 b1 b2 => exact Laws.TableRow.decQ18_2 b0 b1 b2 w
  | decQ8_4 b0 b1 => exact Laws.TableRow.decQ8_4 b0 b1 w
  | encOs os => exact Laws.TableRow.encOs os w
  | encAlt alt => exact Laws.TableRow.encAlt alt w
  | encRst rst => exact Laws.TableRow.encRst rst w
  | encSbyb active => exact Laws.TableRow.encSbyb active w
  | encEvent temp pres => exact Laws.TableRow.encEvent temp pres w
  | encCtrl1 os alt rst active => exact Laws.TableRow.encCtrl1 os alt rst active w
  | decCtrl1 b => exact Laws.TableRow.decCtrl1 b w
  | decStatus b => exact Laws.TableRow.decStatus b w
  | regWidth addr => exact Laws.TableRow.regWidth addr w
  | encBarIn pa => exact Laws.TableRow.encBarIn pa w
  | defSlp => exact Laws.TableRow.defSlp w
  | encOffH metres => exact Laws.TableRow.encOffH metres w
  | encOffP pa => exact Laws.TableRow.encOffP pa w
  | encOffT celsius => exact Laws.TableRow.encOffT celsius w

theorem opcodeTable_patterns_nodup : (opcodeTable.map OpcodeRow.pattern).Nodup := by decide

/-- The code alone determines the row. -/
theorem row_eq_of_pattern_eq {row row' : OpcodeRow} (h : row ∈ opcodeTable) (h' : row' ∈ opcodeTable)
    (hPattern : row'.pattern = row.pattern) : row' = row :=
  List.inj_on_of_nodup_map opcodeTable_patterns_nodup h' h hPattern

theorem pattern_le_of_mem : ∀ row ∈ opcodeTable, row.pattern.toNat ≤ 0x10 := by decide

theorem row_of_decode {w : Nat} {r : Request} {i : Instr} (h : decode w r = .ok i) : ⟨i.mnemonic, r.op⟩ ∈ opcodeTable :=
  (encodeOfDecodeKeepsReadPorts w r i h).1 ▸ mem_opcodeTable w i

theorem decode_of_not_reserved (w : Nat) (r : Request) (h : r.op.toNat ≤ 0x10) : ∃ i, decode w r = .ok i := by
  unfold decode
  generalize r.op.toNat = code at h
  interval_cases code <;> exact ⟨_, rfl⟩

/-- Settles O7: a code up to 0x10 decodes to the instruction of the one row with this code, and a code above every row's is rejected. -/
theorem opAloneSelectsOneRow : Obligations.OpAloneSelectsOneRow := by
  unfold Obligations.OpAloneSelectsOneRow
  refine ⟨fun w r => ?_, fun w r q i j hOp hr hq => ?_⟩
  · rcases Nat.lt_or_ge 0x10 r.op.toNat with hReserved | hLegal
    · refine .inr ⟨hReserved, decode_of_reserved w r hReserved, fun row hRow hPattern => ?_⟩
      exact absurd (pattern_le_of_mem row hRow) (by rw [hPattern]; omega)
    · obtain ⟨i, hDecode⟩ := decode_of_not_reserved w r hLegal
      have hRow := row_of_decode hDecode
      exact .inl ⟨hLegal, i, _, hDecode, hRow, rfl, rfl, fun _ => row_eq_of_pattern_eq hRow⟩
  · exact congrArg OpcodeRow.mnemonic (row_eq_of_pattern_eq (row_of_decode hq) (row_of_decode hr) hOp)

/-- Settles O6: each word's low five bits are looked up in the decoder. -/
theorem tableWordsDecode : Obligations.TableWordsDecode := by
  unfold Obligations.TableWordsDecode
  decide

/-- Settles O36: the operations, run under the parameters at reset. -/
theorem parametersStartAtSpecDefaults : Obligations.ParametersStartAtSpecDefaults := by
  unfold Obligations.ParametersStartAtSpecDefaults
  refine ⟨rfl, by decide, ?_, ?_, ?_, ?_, rfl, rfl⟩
  · exact exec_encOffP_of_inRange State.reset (by decide)
  · have hTenth : (-1 / 10 : Rat) = mkRat (-1) 10 := by rw [Rat.mkRat_eq_div]; rfl
    have hByte : tempOffByte .trunc (-1 / 10) = 0xFF := by
      rw [hTenth]
      decide
    rw [← hByte]
    exact exec_encOffT_of_inRange State.reset (by norm_num)
  · exact exec_encOffH_of_outOfRange State.reset (by decide)
  · exact exec_encBarIn_of_refuse State.reset (by decide) rfl

end Sys2Proof.Machine
end

section
/-! PROOFS. What holds of every operation: it drives its own ports and changes nothing else, and its outcome is a function of the ports
its row reads and of the parameters. -/

namespace Sys2Proof.Machine

/-- Settles O37: an operation that is not refused drives the output ports. -/
theorem operationsChangeOnlyOutputs : Obligations.OperationsChangeOnlyOutputs := by
  unfold Obligations.OperationsChangeOnlyOutputs
  intro i s t hExec
  rcases exec_cases i s with ⟨o, ho, -⟩ | ⟨r, hr⟩
  · cases hExec.symm.trans ho
    exact sameButOutputs_setOut s o
  · exact nomatch hr.symm.trans hExec

theorem ResultOf.drivesExactly {g : DriveGroup} {o : Outputs} (h : ResultOf g o) : o.DrivesExactly g := by
  cases h <;> simp [Outputs.DrivesExactly, Outputs.undriven, decoderResult, byteResult, barInResult, twoByteResult, ctrlResult,
    statusResult, integerResult]

theorem ResultOf.err_eq {g : DriveGroup} {o : Outputs} (h : ResultOf g o) : o.err = some 0b00 := by cases h <;> rfl

/-- Settles O39: the ports of a result are those of its group. -/
theorem operationsDriveTheirPorts : Obligations.OperationsDriveTheirPorts := by
  unfold Obligations.OperationsDriveTheirPorts
  intro i s t hExec
  rcases exec_result hExec with hError | hResult
  · exact .inr hError
  · exact .inl ⟨hResult.err_eq, hResult.drivesExactly⟩

/-- The width the map declares for each target of a write with data bytes (R52, R165). -/
theorem regWidthAt_of_writeLegal {a y : Byte} {rest : List Byte} (h : WriteLegal (a :: y :: rest)) :
    (a.toNat, rest.length + 1) ∈ registerMapRows ∧ regWidthAt a = rest.length + 1 := by
  cases h with
  | ctrlReg1 | ptDataCfg => exact ⟨by decide, rfl⟩
  | barIn => exact ⟨show (0x14, 2) ∈ registerMapRows by decide, rfl⟩
  | offset _ _ hAddr => rcases hAddr with rfl | rfl | rfl <;> exact ⟨by decide, rfl⟩

/-- Settles O29: an operation that drives `AO` and `NB` left bytes of the contract, and each target of those has its width in the map. -/
theorem encodedWidthMatchesMap : Obligations.EncodedWidthMatchesMap := by
  unfold Obligations.EncodedWidthMatchesMap
  intro i s t a n hExec hAddr hCount
  rcases exec_result hExec with hError | hResult
  · rw [hError] at hAddr
    cases hAddr
  · generalize t.out = o, driveGroupOf i = g at hResult hAddr hCount
    cases hResult with
    | oneByte hWrite =>
      cases hAddr
      cases hCount
      exact regWidthAt_of_writeLegal hWrite
    | twoBytes v =>
      cases hAddr
      cases hCount
      exact regWidthAt_of_writeLegal (.barIn 0 0)
    | decoder | ctrlFields | statusFields | integer => cases hAddr

/-! The outcome is a function of the operation and the parameters. -/

/-- The same outputs in both states, or the same refusal. -/
def SameAnswer (s s' : State) (r r' : Result) : Prop :=
  (∃ o, r = .next (s.setOut o) ∧ r' = .next (s'.setOut o)) ∨ ∃ x, r = .refused x ∧ r' = .refused x

theorem sameAnswer_drive (s s' : State) (o : Outputs) : SameAnswer s s' (drive o s) (drive o s') := .inl ⟨o, rfl, rfl⟩

theorem sameAnswer_refused (s s' : State) (x : Refusal) : SameAnswer s s' (.refused x) (.refused x) := .inr ⟨x, rfl, rfl⟩

theorem exec_sameAnswer (i : Instr) {s s' : State} (hCfg : s.cfg = s'.cfg) : SameAnswer s s' (exec i s) (exec i s') := by
  cases i with
  | encOs os =>
    simp only [exec, execEncOs]
    split <;> exact sameAnswer_drive s s' _
  | encCtrl1 os alt rst active =>
    simp only [exec, execEncCtrl1]
    split <;> exact sameAnswer_drive s s' _
  | encOffP pa =>
    simp only [exec, execEncOffP, hCfg]
    split <;> exact sameAnswer_drive s s' _
  | encOffT celsius =>
    simp only [exec, execEncOffT, hCfg]
    split <;> exact sameAnswer_drive s s' _
  | encOffH metres =>
    simp only [exec, execEncOffH]
    split
    · exact sameAnswer_drive s s' _
    · exact sameAnswer_refused s s' _
  | encBarIn pa =>
    simp only [exec, execEncBarIn, hCfg]
    split
    · exact sameAnswer_refused s s' _
    · split
      · exact sameAnswer_drive s s' _
      · split
        · exact sameAnswer_refused s s' _
        · exact sameAnswer_drive s s' _
  | _ => exact sameAnswer_drive s s' _

/-- Requests that decode alike are answered alike. -/
theorem evaluate_sameAnswer {s s' : State} (hCfg : s.cfg = s'.cfg)
    (hDecode : decode s.cfg.wInt s.req = decode s.cfg.wInt s'.req) : SameAnswer s s' (evaluate s) (evaluate s') := by
  cases h : decode s.cfg.wInt s.req with
  | ok i =>
    have h' : decode s'.cfg.wInt s'.req = .ok i := hCfg ▸ hDecode ▸ h
    rw [evaluate_of_decode h, evaluate_of_decode h']
    exact exec_sameAnswer i hCfg
  | error e =>
    have h' : decode s'.cfg.wInt s'.req = .error e := hCfg ▸ hDecode ▸ h
    rw [evaluate_of_decode_error h, evaluate_of_decode_error h']
    exact sameAnswer_drive s s' (errorResult 0b10)

/-- Settles O40: equal requests decode alike. -/
theorem evaluationForgetsHistory : Obligations.EvaluationForgetsHistory := by
  unfold Obligations.EvaluationForgetsHistory
  exact fun s s' hReq hCfg => evaluate_sameAnswer hCfg (by rw [hReq])

/-- Settles O41: the first evaluation changed the outputs alone, so the second decodes alike and drives the outputs that stand. -/
theorem evaluationIsIdempotent : Obligations.EvaluationIsIdempotent := by
  unfold Obligations.EvaluationIsIdempotent
  intro s t hEval
  rcases evaluate_cases s with ⟨o, ho, -⟩ | ⟨r, hr⟩
  · cases hEval.symm.trans ho
    rcases evaluate_sameAnswer (s := s) (s' := s.setOut o) rfl rfl with ⟨p, hp, hp'⟩ | ⟨x, hx, -⟩
    · rw [hp', State.setOut_setOut, ← hp, ho]
    · exact nomatch hx.symm.trans ho
  · exact nomatch hr.symm.trans hEval

/-- Settles O42: an evaluation that is not refused drives legal outputs, `ERR` among them. -/
theorem evaluationOutputsLegal : Obligations.EvaluationOutputsLegal := by
  unfold Obligations.EvaluationOutputsLegal
  intro s t hEval
  rcases evaluate_cases s with ⟨o, ho, hLegal, hErr⟩ | ⟨r, hr⟩
  · cases hEval.symm.trans ho
    exact ⟨hLegal, hErr⟩
  · exact nomatch hr.symm.trans hEval

/-! The outcome is a function of the ports the row reads. -/

theorem intOperand_congr {w : Nat} {r q : Request} (h : AgreeOnIA w r q) : intOperand w r.ia = intOperand w q.ia :=
  congrArg BitVec.toInt (BitVec.eq_of_toNat_eq (by rw [BitVec.toNat_ofNat, BitVec.toNat_ofNat]; exact h))

/-- Agreement on the ports a row reads is agreement of the decoded instructions (R27). -/
theorem decode_congr {w : Nat} {r q : Request} (hOp : r.op = q.op) (hReads : AgreeOnReads w r.op r q) :
    decode w r = decode w q := by
  unfold AgreeOnReads at hReads
  split at hReads
  case h_18 =>
    have hReserved : 0x11 ≤ r.op.toNat := by
      simp only [imp_false] at *
      omega
    rw [decode_of_reserved w r hReserved, decode_of_reserved w q (hOp ▸ hReserved), hOp]
  case h_4 | h_13 | h_15 | h_16 =>
    next hCode =>
    have hCode' := hOp ▸ hCode
    simp only [decode, hCode, hCode', intOperand_congr hReads]
  case h_9 =>
    next hCode =>
    have hCode' := hOp ▸ hCode
    obtain ⟨hIa, hFa, hFb, hFc⟩ := hReads
    simp only [decode, hCode, hCode', intOperand_congr hIa, hFa, hFb, hFc]
  all_goals
    next hCode =>
    have hCode' := hOp ▸ hCode
    simp only [decode, hCode, hCode', hReads]

/-- Settles O38: the two requests decode alike. -/
theorem unreadPortsDontMatter : Obligations.UnreadPortsDontMatter := by
  unfold Obligations.UnreadPortsDontMatter
  intro s r q hOp hReads
  exact evaluate_sameAnswer (s := { s with req := r }) (s' := { s with req := q }) rfl (decode_congr hOp hReads)

end Sys2Proof.Machine
end

section
/-! PROOFS. The exact values of the decoders' results (R102 to R112), the bytes of ENC_CTRL1 and their way back through DEC_CTRL1
(R137, R161), and the tables (R53, R162, R193). -/

namespace Sys2Proof.Machine

/-! The raw word is the integer followed by the fraction. -/

theorem q16RawWord_toInt (b0 b1 b2 : Byte) :
    (b0 ++ b1 ++ highNibble b2).toInt = 16 * ((b0 ++ b1).signExtend 32).toInt + ((highNibble b2).toNat : Int) := by
  have h0 := b0.isLt
  have h1 := b1.isLt
  have h2 := b2.isLt
  rw [q16Integer_toInt, highNibble_toNat, BitVec.toInt_eq_toNat_cond, rawWord_toNat]
  split <;> split <;> omega

theorem q18RawWord_toNat (b0 b1 b2 : Byte) :
    (b0 ++ b1 ++ highNibble b2).toNat =
      4 * (((b0 ++ b1 ++ highNibble b2).extractLsb' 2 18).setWidth 32).toNat + ((b2.extractLsb' 4 2).setWidth 4).toNat := by
  rw [rawWord_toNat, q18Integer_toNat, q18Fraction_toNat]
  omega

theorem q8RawWord_toInt (b0 b1 : Byte) :
    (((b0 ++ highNibble b1).setWidth 20).extractLsb' 0 12).toInt =
      16 * (b0.signExtend 32).toInt + ((highNibble b1).toNat : Int) := by
  have h0 := b0.isLt
  have h1 := b1.isLt
  rw [q8Integer_toInt, highNibble_toNat, BitVec.toInt_eq_toNat_cond, BitVec.extractLsb'_toNat, q8RawWord_toNat,
    Nat.shiftRight_zero]
  split <;> split <;> omega

theorem signedValue_eq_of_raw {io : BitVec 32} {fo : BitVec 4} {raw : Int} (h : raw = 16 * io.toInt + (fo.toNat : Int)) :
    (io.toInt : Rat) + (fo.toNat : Rat) / 16 = (raw : Rat) / 16 := by
  rw [h]
  push_cast
  ring

theorem unsignedValue_eq_of_raw {io : BitVec 32} {fo : BitVec 4} {raw : Nat} (h : raw = 4 * io.toNat + fo.toNat) :
    (io.toNat : Rat) + (fo.toNat : Rat) / 4 = (raw : Rat) / 4 := by
  rw [h]
  push_cast
  ring

/-- Settles O12: in each raw word the integer stands above the fraction. -/
theorem decoderValueIsRawWordValue : Obligations.DecoderValueIsRawWordValue := by
  unfold Obligations.DecoderValueIsRawWordValue
  refine ⟨fun s b0 b1 b2 => ?_, fun s b0 b1 b2 => ?_, fun s b0 b1 => ?_⟩
  · have hValue := signedValue_eq_of_raw (q16RawWord_toInt b0 b1 b2)
    exact ⟨_, _, _, exec_decQ16_4 b0 b1 b2 s, hValue, (signedValue_eq _ _).trans hValue⟩
  · have hValue := unsignedValue_eq_of_raw (q18RawWord_toNat b0 b1 b2)
    exact ⟨_, _, _, exec_decQ18_2 b0 b1 b2 s, hValue, (unsignedValue_eq _ _).trans hValue⟩
  · have hValue := signedValue_eq_of_raw (q8RawWord_toInt b0 b1)
    have h0 := b0.isLt
    have h1 := b1.isLt
    refine ⟨_, _, _, exec_decQ8_4 b0 b1 s, hValue, (signedValue_eq _ _).trans hValue, ?_⟩
    rw [q8RawWord_toNat]
    omega

/-- A fraction of sixteenths is less than 1, so the integer is the floor (R112). -/
theorem signedValue_roundsTo_floor (io : BitVec 32) (fo : BitVec 4) : RoundsTo .floor (signedValue io fo) io.toInt := by
  have hFraction : (fo.toNat : Rat) < 16 := by exact_mod_cast fo.isLt
  have hNonneg : (0 : Rat) ≤ fo.toNat := Nat.cast_nonneg _
  rw [signedValue_eq]
  exact ⟨by linarith, by linarith⟩

/-- Settles O15: both decoders give an integer and a fraction of sixteenths. -/
theorem signedIntegerIsFloor : Obligations.SignedIntegerIsFloor := by
  unfold Obligations.SignedIntegerIsFloor
  exact ⟨fun s b0 b1 b2 => ⟨_, _, _, exec_decQ16_4 b0 b1 b2 s, signedValue_roundsTo_floor _ _⟩,
    fun s b0 b1 => ⟨_, _, _, exec_decQ8_4 b0 b1 s, signedValue_roundsTo_floor _ _⟩⟩

/-- What DEC_Q16_4 answers is one integer and one fraction. -/
theorem exec_decQ16_4_gives_iff (b0 b1 b2 : Byte) (s : State) (i : Int) (f : Nat) :
    (∃ io fo raw, exec (.decQ16_4 b0 b1 b2) s = .next { s with out := decoderResult io fo raw } ∧ io.toInt = i ∧ fo.toNat = f) ↔
      ((b0 ++ b1).signExtend 32).toInt = i ∧ (highNibble b2).toNat = f := by
  constructor
  · rintro ⟨io, fo, raw, hExec, rfl, rfl⟩
    have hOut : decoderResult _ _ _ = decoderResult io fo raw :=
      congrArg State.out (Host.Outcome.next.inj ((exec_decQ16_4 b0 b1 b2 s).symm.trans hExec))
    cases hOut
    exact ⟨rfl, rfl⟩
  · rintro ⟨hi, hf⟩
    exact ⟨_, _, _, exec_decQ16_4 b0 b1 b2 s, hi, hf⟩

/-- Settles O13: the ranges are those of the fields' widths, and the first two bytes of a signed 16-bit integer are
its two's complement. -/
theorem decoderRanges : Obligations.DecoderRanges := by
  unfold Obligations.DecoderRanges
  refine ⟨fun s t b0 b1 b2 hExec => ?_, fun s t b0 b1 b2 hExec => ?_, fun s t b0 b1 hExec => ?_, fun s i f hi hf => ?_⟩
  · have h0 := b0.isLt
    have h1 := b1.isLt
    have h2 := b2.isLt
    cases hExec
    refine ⟨_, _, rfl, rfl, ?_⟩
    rw [q16Integer_toInt, highNibble_toNat]
    split <;> omega
  · have h0 := b0.isLt
    have h1 := b1.isLt
    have h2 := b2.isLt
    cases hExec
    refine ⟨_, _, rfl, rfl, ?_⟩
    rw [q18Integer_toNat, q18Fraction_toNat]
    omega
  · have h0 := b0.isLt
    have h1 := b1.isLt
    cases hExec
    refine ⟨_, _, rfl, rfl, ?_⟩
    rw [q8Integer_toInt, highNibble_toNat]
    split <;> omega
  · refine ⟨(i % 65536).toNat / 256, (i % 256).toNat, f, by omega, by omega, by omega, fun c0 c1 c2 => ?_⟩
    have h0 := c0.isLt
    have h1 := c1.isLt
    rw [exec_decQ16_4_gives_iff, q16Integer_toInt, highNibble_toNat]
    split <;> omega

/-! The bytes of ENC_CTRL1 (R137). -/

theorem altField_and_osField {os : Int} (h : 0 ≤ os ∧ os ≤ 7) (alt : Bool) : altField alt &&& osField os = 0 := by
  rw [BitVec.and_comm]
  exact osField_and_flagByte h (by decide) alt

/-- Settles O22: the byte is the OR by definition, and the fields fill different bits. -/
theorem ctrl1IsOrOfFields : Obligations.Ctrl1IsOrOfFields := by
  unfold Obligations.Ctrl1IsOrOfFields
  intro s os alt rst active h
  refine ⟨_, _, _, _, _, exec_encCtrl1_of_inRange s alt rst active h, exec_encAlt alt s, exec_encOs_of_inRange s h,
    exec_encRst rst s, exec_encSbyb active s, rfl, ctrl1Byte_eq_sum alt rst active h, ?_, ?_, ?_, ?_, ?_, ?_⟩
  · exact altField_and_osField h alt
  · exact flagByte_and_flagByte (by decide) alt rst
  · exact flagByte_and_flagByte (by decide) alt active
  · exact osField_and_flagByte h (by decide) rst
  · exact osField_and_flagByte h (by decide) active
  · exact flagByte_and_flagByte (by decide) rst active

theorem ite_beq_one (flag : Bool) : ((if flag then 1 else 0 : Nat) == 1) = flag := by cases flag <;> rfl

theorem osBits_inRange (b : Byte) : 0 ≤ ((b.extractLsb' 3 3).toNat : Int) ∧ ((b.extractLsb' 3 3).toNat : Int) ≤ 7 := by
  rw [osBits_toNat]
  omega

/-- DEC_CTRL1's fields of ENC_CTRL1's byte are ENC_CTRL1's operands (R161). -/
theorem ctrl1Byte_fields {os : Int} (alt rst active : Bool) (h : 0 ≤ os ∧ os ≤ 7) :
    (((ctrl1Byte os alt rst active).extractLsb' 3 3).toNat : Int) = os ∧ (ctrl1Byte os alt rst active).getLsbD 7 = alt ∧
      (ctrl1Byte os alt rst active).getLsbD 2 = rst ∧ (ctrl1Byte os alt rst active).getLsbD 0 = active := by
  have hByte := ctrl1Byte_toNat alt rst active h
  rw [osBits_toNat, getLsbD_eq_div_mod, getLsbD_eq_div_mod, getLsbD_eq_div_mod]
  generalize (ctrl1Byte os alt rst active).toNat = n at hByte ⊢
  refine ⟨?_, ?_, ?_, ?_⟩
  · split_ifs at hByte <;> omega
  · have hBit : n / 2 ^ 7 % 2 = if alt then 1 else 0 := by split_ifs at hByte ⊢ <;> omega
    rw [hBit, ite_beq_one]
  · have hBit : n / 2 ^ 2 % 2 = if rst then 1 else 0 := by split_ifs at hByte ⊢ <;> omega
    rw [hBit, ite_beq_one]
  · have hBit : n / 2 ^ 0 % 2 = if active then 1 else 0 := by split_ifs at hByte ⊢ <;> omega
    rw [hBit, ite_beq_one]

/-! A byte's fields, encoded again, are the parts of it that the fields' masks keep (R161). -/

theorem flagByte_getLsbD (b : Byte) (i : Nat) : flagByte (b.getLsbD i) (BitVec.twoPow 8 i) = b &&& BitVec.twoPow 8 i :=
  (BitVec.and_twoPow b i).symm

theorem osField_osBits (b : Byte) : osField (b.extractLsb' 3 3).toNat = b &&& 0x38 := by
  have hShift : osField (b.extractLsb' 3 3).toNat = (b.extractLsb' 3 3).setWidth 8 <<< 3 := by
    have hOs := osBits_toNat b
    refine BitVec.eq_of_toNat_eq ?_
    rw [osField, bits, BitVec.toNat_ofInt, BitVec.toNat_shiftLeft, BitVec.toNat_setWidth, Nat.shiftLeft_eq]
    omega
  rw [hShift]
  refine BitVec.eq_of_getLsbD_eq fun i hi => ?_
  interval_cases i <;> simp

theorem ctrl1Byte_of_fields (b : Byte) :
    ctrl1Byte (b.extractLsb' 3 3).toNat (b.getLsbD 7) (b.getLsbD 2) (b.getLsbD 0) = b &&& 0xBD := by
  calc ctrl1Byte (b.extractLsb' 3 3).toNat (b.getLsbD 7) (b.getLsbD 2) (b.getLsbD 0)
      = b &&& 0x80 ||| b &&& 0x38 ||| b &&& 0x04 ||| b &&& 0x01 := by
        rw [ctrl1Byte, osField_osBits]
        exact congrArg₂ _ (congrArg₂ _ (congrArg (· ||| _) (flagByte_getLsbD b 7)) (flagByte_getLsbD b 2)) (flagByte_getLsbD b 0)
    _ = b &&& 0xBD := by rw [← BitVec.and_or_distrib_left, ← BitVec.and_or_distrib_left, ← BitVec.and_or_distrib_left]; rfl

/-- Settles O25: the byte's fields are the operands, and a byte's fields make up the byte without bits 6 and 1. -/
theorem ctrl1RoundTrip : Obligations.Ctrl1RoundTrip := by
  unfold Obligations.Ctrl1RoundTrip
  refine ⟨fun s os alt rst active h => ?_, fun s os h => ?_, fun s b => ?_⟩
  · obtain ⟨hOs, hAlt, hRst, hActive⟩ := ctrl1Byte_fields alt rst active h
    refine ⟨_, _, exec_encCtrl1_of_inRange s alt rst active h, ?_, hOs⟩
    rw [exec_decCtrl1, hAlt, hRst, hActive]
  · have hOnlyOs : osField os = ctrl1Byte os false false false := by simp [ctrl1Byte, altField, rstField, sbybField, flagByte]
    refine ⟨_, _, _, exec_encOs_of_inRange s h, exec_decCtrl1 _ s, rfl, ?_⟩
    rw [hOnlyOs]
    exact (ctrl1Byte_fields false false false h).1
  · refine ⟨_, _, _, _, exec_decCtrl1 b s, ?_⟩
    rw [← ctrl1Byte_of_fields]
    exact exec_encCtrl1_of_inRange s _ _ _ (osBits_inRange b)

/-- A byte is apart from 0x42 when its bits 6 and 1 are clear. -/
theorem and_unassigned_eq_zero_iff (b : Byte) : b &&& 0x42 = 0 ↔ b.getLsbD 6 = false ∧ b.getLsbD 1 = false := by
  constructor
  · intro h
    have hBit (i : Nat) : (b &&& 0x42).getLsbD i = false := by rw [h]; exact BitVec.getLsbD_zero
    simpa using And.intro (hBit 6) (hBit 1)
  · rintro ⟨h6, h1⟩
    simp only [Nat.reduceLT, BitVec.getLsbD_eq_getElem] at h6 h1
    refine BitVec.eq_of_getLsbD_eq fun i hi => ?_
    interval_cases i <;> simp [h6, h1]

theorem and_assigned_of_clear {b : Byte} (h : b &&& 0x42 = 0) : b &&& 0xBD = b := by
  calc b &&& 0xBD = b &&& 0xBD ||| b &&& 0x42 := by rw [h]; exact BitVec.or_zero.symm
    _ = b &&& BitVec.allOnes 8 := BitVec.and_or_distrib_left.symm
    _ = b := BitVec.and_allOnes

theorem byteResult_inj {a y y' : Byte} (h : byteResult a y = byteResult a y') : y = y' :=
  Option.some.inj (congrArg Outputs.y0 h)

theorem exec_encCtrl1_eq_iff (s : State) {os : Int} (alt rst active : Bool) (h : 0 ≤ os ∧ os ≤ 7) (y : Byte) :
    exec (.encCtrl1 os alt rst active) s = .next { s with out := byteResult 0x26 y } ↔ ctrl1Byte os alt rst active = y := by
  rw [exec_encCtrl1_of_inRange s alt rst active h]
  refine ⟨fun hExec => byteResult_inj (congrArg State.out (Host.Outcome.next.inj hExec)), ?_⟩
  rintro rfl
  rfl

/-- Settles O23: the fields of the byte give back the operands, and a byte whose bits 6 and 1 are clear is the one its fields make up. -/
theorem ctrl1BytesAreThe64 : Obligations.Ctrl1BytesAreThe64 := by
  unfold Obligations.Ctrl1BytesAreThe64
  refine ⟨fun s t os os' alt alt' rst rst' active active' h h' hExec hExec' => ?_, fun s y => ⟨?_, fun hClear => ?_⟩, by decide⟩
  · cases hExec.symm.trans (exec_encCtrl1_of_inRange s alt rst active h)
    have hByte := (exec_encCtrl1_eq_iff s alt' rst' active' h' _).1 hExec'
    obtain ⟨hOs, hAlt, hRst, hActive⟩ := ctrl1Byte_fields alt rst active h
    obtain ⟨hOs', hAlt', hRst', hActive'⟩ := ctrl1Byte_fields alt' rst' active' h'
    rw [hByte] at hOs' hAlt' hRst' hActive'
    exact ⟨hOs.symm.trans hOs', hAlt.symm.trans hAlt', hRst.symm.trans hRst', hActive.symm.trans hActive'⟩
  · rintro ⟨os, alt, rst, active, hLow, hHigh, hExec⟩
    rw [← and_unassigned_eq_zero_iff, ← (exec_encCtrl1_eq_iff s alt rst active ⟨hLow, hHigh⟩ y).1 hExec]
    exact ctrl1Byte_and_unassigned alt rst active ⟨hLow, hHigh⟩
  · obtain ⟨hLow, hHigh⟩ := osBits_inRange y
    refine ⟨_, y.getLsbD 7, y.getLsbD 2, y.getLsbD 0, hLow, hHigh, (exec_encCtrl1_eq_iff s _ _ _ ⟨hLow, hHigh⟩ y).2 ?_⟩
    rw [ctrl1Byte_of_fields]
    exact and_assigned_of_clear ((and_unassigned_eq_zero_iff y).2 hClear)

/-- Settles O26: each output is a bit of the byte. -/
theorem decStatusResult : Obligations.DecStatusResult := by
  unfold Obligations.DecStatusResult
  refine ⟨selects_of_decode fun w r hop => by simp [decode, hop], fun s b => ?_⟩
  have hPtdr : b.getLsbD 3 = (b.toNat / 8 % 2 == 1) := getLsbD_eq_div_mod b 3
  have hPdr : b.getLsbD 2 = (b.toNat / 4 % 2 == 1) := getLsbD_eq_div_mod b 2
  have hTdr : b.getLsbD 1 = (b.toNat / 2 % 2 == 1) := getLsbD_eq_div_mod b 1
  rw [← hPtdr, ← hPdr, ← hTdr]
  rfl

/-- Settles O31: the literal, and its half in two bytes. -/
theorem defSlpResult : Obligations.DefSlpResult := by
  unfold Obligations.DefSlpResult
  refine ⟨selects_of_decode fun w r hop => by simp [decode, hop], fun s => ⟨_, rfl, rfl, ?_⟩⟩
  exact exec_encBarIn_of_fits s (p := 101326) (by decide)

/-! The spans of the register map (R53). -/

/-- Two entries share no byte but 0x1E. -/
def RegEntry.MeetAt0x1E (e e' : RegEntry) : Prop :=
  ∀ a : Byte, e.spans a = true → e'.spans a = true → a.toNat = 0x1E

theorem spans_iff (e : RegEntry) (a : Byte) : e.spans a = true ↔ e.addr.toNat ≤ a.toNat ∧ a.toNat < e.addr.toNat + e.width :=
  decide_eq_true_iff

/-- Each entry ends before any later one begins, but for PRES_MIN, whose last byte is TEMP_MIN's first. -/
theorem regMap_pairwise :
    regMap.Pairwise fun e e' => e.addr.toNat + e.width ≤ e'.addr.toNat ∨ (e.addr.toNat + e.width = 0x1F ∧ e'.addr.toNat = 0x1E) := by
  decide

theorem meetAt0x1E_of_mem {e e' : RegEntry} (h : e ∈ regMap) (h' : e' ∈ regMap) (hNe : e ≠ e') : e.MeetAt0x1E e' := by
  have hSymm : Std.Symm RegEntry.MeetAt0x1E := ⟨fun _ _ hMeet a ha ha' => hMeet a ha' ha⟩
  refine (regMap_pairwise.imp ?_).forall h h' hNe
  intro e e' hOrder a ha ha'
  rw [spans_iff] at ha ha'
  omega

/-- Settles O28: the entries of the map cover all bytes up to 0x2D but 0x20, and two of them meet at 0x1E alone. -/
theorem spansAreNoPartition : Obligations.SpansAreNoPartition := by
  unfold Obligations.SpansAreNoPartition
  refine ⟨by decide, fun a => ⟨?_, ?_⟩⟩
  · simp only [spans_iff]
    simp [regMap]
    omega
  · constructor
    · rintro ⟨e, he, e', he', hNe, ha, ha'⟩
      exact meetAt0x1E_of_mem he he' hNe a ha ha'
    · intro ha
      obtain rfl : a = 0x1E := BitVec.eq_of_toNat_eq ha
      decide

end Sys2Proof.Machine
end

section
/-! PROOFS. The poll, the read of the block and the conversions (R241 to R244), the short operations (R245), and whole runs: a
measurement from its first request to its result, and a poll without a bound (R270). -/

namespace Sys2Proof.Machine

/-! Bus calls that fail. -/

section BusFailures

variable {s : State} {e : Nat}

theorem busAnswer_logEvent_fst (s : State) (ev : BusEvent) : (busAnswer (s.logEvent ev)).1 = (busAnswer s).1 := by
  unfold busAnswer State.logEvent
  cases s.busReplies <;> rfl

theorem busReadByte_of_busError (a : Byte) (h : (busAnswer s).1 = some e) :
    busReadByte a s = (.error e, ((busAnswer s).2.setCursor none).logEvent (.readByteFailed a e)) := by
  unfold busReadByte
  split
  · next hBus =>
    rw [hBus] at h ⊢
    cases h
    rfl
  · next hBus =>
    rw [hBus] at h
    cases h

theorem busReadBytes_of_busError (n : Nat) (h : (busAnswer s).1 = some e) :
    busReadBytes n s = (.error e, ((busAnswer s).2.setCursor none).logEvent (.readBytesFailed s.cursor n e)) := by
  rw [← busAnswer_cursor s]
  unfold busReadBytes
  split
  · next hBus =>
    rw [hBus] at h ⊢
    cases h
    rfl
  · next hBus =>
    rw [hBus] at h
    cases h

theorem pollStatus_of_busError (mode : PressureMode) (reads : Nat) (h : (busAnswer s).1 = some e) :
    (pollStatus mode reads s).results = s.results ++ [CallResult.failed (.bus e)] ∧
      (pollStatus mode reads s).trace = s.trace ++ [BusEvent.sleep s.cfg.pollInterval, .readByteFailed 0x00 e] := by
  rw [← busAnswer_logEvent_fst s (.sleep s.cfg.pollInterval)] at h
  have hRead := busReadByte_of_busError (addrOf .status) h
  simp only [pollStatus, hRead]
  exact ⟨by simp, by simp [addrOf]⟩

theorem readMeasurement_of_writeError (mode : PressureMode) (h : (busAnswer s).1 = some e) :
    (readMeasurement mode s).results = s.results ++ [CallResult.failed (.bus e)] ∧
      (readMeasurement mode s).trace = s.trace ++ [BusEvent.write [0x00] (some e)] := by
  rcases readMeasurement_cases s mode with ⟨e', he, hRead⟩ | ⟨_, _, _, hNone, _⟩ | ⟨_, _, _, hNone, _⟩
  · rw [h] at he
    cases he
    simp only [hRead]
    exact ⟨by simp, by simp [h]⟩
  · exact nomatch h.symm.trans hNone
  · exact nomatch h.symm.trans hNone

theorem readMeasurement_of_readError (mode : PressureMode) {rest : List (Option Nat)} (h : s.busReplies = none :: some e :: rest) :
    (readMeasurement mode s).results = s.results ++ [CallResult.failed (.bus e)] ∧
      (readMeasurement mode s).trace = s.trace ++ [BusEvent.write [0x00] none, .readBytesFailed (some 0x00) 6 e] := by
  have hWrite := busWrite_of_listed s [addrOf .status] none (some e :: rest) h
  have hAnswer : (busAnswer (busWrite [addrOf .status] s).2).1 = some e := by
    rw [busAnswer_of_listed _ (some e) rest (by rw [hWrite])]
  have hRead := busReadBytes_of_busError 6 hAnswer
  rw [hWrite] at hRead
  simp only [readMeasurement, hWrite, hRead]
  exact ⟨by simp, by simp [addrOf, addressedAfter]⟩

end BusFailures

/-! A step of the poll (R241, R242). -/

section Polling

variable {s : State} {mode : PressureMode} {n : Nat} {v : Byte}

/-- The ports after DEC_STATUS of a byte. -/
def statusOutputs (v : Byte) : Outputs := statusResult (v.getLsbD 3) (v.getLsbD 2) (v.getLsbD 1)

theorem statusOutputs_oPtdr_eq_true (h : v.toNat / 8 % 2 = 1) : (statusOutputs v).oPtdr = some true :=
  congrArg some ((getLsbD_eq_div_mod v 3).trans (beq_iff_eq.2 h))

theorem statusOutputs_oPtdr_eq_false (h : v.toNat / 8 % 2 = 0) : (statusOutputs v).oPtdr = some false :=
  congrArg some ((getLsbD_eq_div_mod v 3).trans (beq_eq_false_iff_ne.2 (by omega)))

theorem step_of_decStatus (hReq : s.req = encode s.cfg.wInt (.decStatus v)) :
    step s = .next (react (s.setOut (statusOutputs v))) := step_of_encode hReq rfl rfl

theorem step_polling_of_ready (hPhase : s.phase = .polling mode n) (hReq : s.req = encode s.cfg.wInt (.decStatus v))
    (hReady : v.toNat / 8 % 2 = 1) : step s = .next (readMeasurement mode (s.setOut (statusOutputs v))) := by
  rw [step_of_decStatus hReq]
  simp only [react, State.setOut_phase, hPhase, State.setOut_out, statusOutputs_oPtdr_eq_true hReady]

theorem step_polling_of_waiting (hPhase : s.phase = .polling mode n) (hReq : s.req = encode s.cfg.wInt (.decStatus v))
    (hWaiting : v.toNat / 8 % 2 = 0) (hBound : pollExhausted s.cfg.pollMax n = false) :
    step s = .next (pollStatus mode n (s.setOut (statusOutputs v))) := by
  rw [step_of_decStatus hReq]
  simp [react, hPhase, statusOutputs_oPtdr_eq_false hWaiting, hBound]

theorem step_polling_of_exhausted (hPhase : s.phase = .polling mode n) (hReq : s.req = encode s.cfg.wInt (.decStatus v))
    (hWaiting : v.toNat / 8 % 2 = 0) (hBound : pollExhausted s.cfg.pollMax n = true) :
    step s = .next (failCall .timeout (s.setOut (statusOutputs v))) := by
  rw [step_of_decStatus hReq]
  simp [react, hPhase, statusOutputs_oPtdr_eq_false hWaiting, hBound]

/-- A poll goes on where no bound is set or the bound is above the reads made (log 11). -/
theorem pollExhausted_eq_false {pollMax : Option Nat} (h : pollMax = none ∨ ∃ m, pollMax = some m ∧ n < m) :
    pollExhausted pollMax n = false := by
  rcases h with rfl | ⟨m, rfl, hBelow⟩
  · rfl
  · exact decide_eq_false (not_le.2 hBelow)

theorem pollExhausted_eq_true {pollMax : Option Nat} {m : Nat} (h : pollMax = some m) (hReached : m ≤ n) :
    pollExhausted pollMax n = true := by
  subst h
  exact decide_eq_true hReached

/-- One more turn of the poll, with the bus's answer and the status byte listed. -/
theorem step_polling_of_listed {w : Byte} {replies : List (Option Nat)} {dev : List Byte} (hPhase : s.phase = .polling mode n)
    (hReq : s.req = encode s.cfg.wInt (.decStatus v)) (hWaiting : v.toNat / 8 % 2 = 0)
    (hBound : pollExhausted s.cfg.pollMax n = false) (hReplies : s.busReplies = none :: replies) (hDev : s.devBytes = w :: dev) :
    step s = .next { s with
      out := statusOutputs v, busReplies := replies, devBytes := dev, phase := .polling mode (n + 1), cursor := some 0x00,
      req := encode s.cfg.wInt (.decStatus w),
      trace := s.trace ++ [BusEvent.sleep s.cfg.pollInterval, .readByte 0x00 w] } := by
  rw [step_polling_of_waiting hPhase hReq hWaiting hBound,
    pollStatus_of_listed (s.setOut (statusOutputs v)) mode n w replies dev hReplies hDev]
  rfl

/-- The read of the block, with the bus's two answers and the six bytes listed. -/
theorem step_polling_of_ready_listed {b : MeasBlock} {replies : List (Option Nat)} {dev : List Byte}
    (hPhase : s.phase = .polling mode n) (hReq : s.req = encode s.cfg.wInt (.decStatus v)) (hReady : v.toNat / 8 % 2 = 1)
    (hReplies : s.busReplies = none :: none :: replies) (hDev : s.devBytes = b.bytes ++ dev) :
    step s = .next { s with
      out := statusOutputs v, busReplies := replies, devBytes := dev, phase := .convertMain mode b, cursor := some 0x00,
      req := encode s.cfg.wInt (mode.decoder b),
      trace := s.trace ++ [BusEvent.write [0x00] none, .readBytes (some 0x00) b.bytes] } := by
  rw [step_polling_of_ready hPhase hReq hReady,
    readMeasurement_of_listed (s.setOut (statusOutputs v)) mode b replies dev hReplies hDev]
  rfl

end Polling

/-- Settles O50: below the bound one more turn, at the bound the timeout. -/
theorem pollRepeatsUntilReady : Obligations.PollRepeatsUntilReady := by
  unfold Obligations.PollRepeatsUntilReady
  intro s mode n v hPhase hReq hWaiting
  refine ⟨?_, fun m hMax hReached => ?_⟩
  · rintro hBound w ⟨replies, hReplies⟩ ⟨dev, hDev⟩
    exact ⟨_, step_polling_of_listed hPhase hReq hWaiting (pollExhausted_eq_false hBound) hReplies hDev, rfl, rfl, rfl, rfl⟩
  · exact ⟨_, step_polling_of_exhausted hPhase hReq hWaiting (pollExhausted_eq_true hMax hReached), failCall_trace _ _,
      failCall_results _ _⟩

/-- Settles O51: the cursor write and the read of six bytes, which go to the mode's decoder. -/
theorem readyPollReadsBlock : Obligations.ReadyPollReadsBlock := by
  unfold Obligations.ReadyPollReadsBlock
  rintro s mode n v r0 r1 r2 r3 r4 r5 hPhase hReq hReady ⟨replies, hReplies⟩ ⟨dev, hDev⟩
  refine ⟨_, ⟨r0, r1, r2, r3, r4, r5⟩, step_polling_of_ready_listed hPhase hReq hReady hReplies hDev, rfl, rfl, rfl, rfl, rfl, ?_⟩
  cases mode <;> rfl

/-! The conversions (R243): each decoder's result as the exact value. -/

/-- The pressure or altitude in a block (R102, R105, R243). -/
def mainValue (mode : PressureMode) (b : MeasBlock) : Rat :=
  match mode with
  | .barometer => ((1024 * b.pMsb.toNat + 4 * b.pCsb.toNat + b.pLsb.toNat / 64 : Nat) : Rat) + ((b.pLsb.toNat / 16 % 4 : Nat) : Rat) / 4
  | .altimeter => ((b.pMsb ++ b.pCsb).toInt : Rat) + ((b.pLsb.toNat / 16 : Nat) : Rat) / 16

/-- The temperature in a block (R108, R243). -/
def tempValue (b : MeasBlock) : Rat := (b.tMsb.toInt : Rat) + ((b.tLsb.toNat / 16 : Nat) : Rat) / 16

theorem exec_mainDecoder (mode : PressureMode) (b : MeasBlock) (s : State) : ∃ io fo raw,
    exec (mode.decoder b) s = .next { s with out := decoderResult io fo raw } ∧ mode.value io fo = mainValue mode b := by
  cases mode with
  | barometer =>
    refine ⟨_, _, _, exec_decQ18_2 b.pMsb b.pCsb b.pLsb s, (unsignedValue_eq _ _).trans ?_⟩
    rw [q18Integer_toNat, q18Fraction_toNat, mainValue]
    congr 2
    omega
  | altimeter =>
    refine ⟨_, _, _, exec_decQ16_4 b.pMsb b.pCsb b.pLsb s, (signedValue_eq _ _).trans ?_⟩
    rw [BitVec.toInt_signExtend_of_le (by decide), highNibble_toNat, mainValue]

theorem exec_tempDecoder (b : MeasBlock) (s : State) : ∃ io fo raw,
    exec (.decQ8_4 b.tMsb b.tLsb) s = .next { s with out := decoderResult io fo raw } ∧ signedValue io fo = tempValue b := by
  refine ⟨_, _, _, exec_decQ8_4 b.tMsb b.tLsb s, (signedValue_eq _ _).trans ?_⟩
  rw [BitVec.toInt_signExtend_of_le (by decide), highNibble_toNat, tempValue]

theorem mainDecoder_wellFormed (w : Nat) (mode : PressureMode) (b : MeasBlock) : (mode.decoder b).WellFormed w := by
  cases mode <;> rfl

section Conversions

variable {s : State} {mode : PressureMode} {b : MeasBlock} {value : Rat}

theorem step_convertMain (hPhase : s.phase = .convertMain mode b) (hReq : s.req = encode s.cfg.wInt (mode.decoder b)) :
    ∃ o, step s = .next ((s.setOut o).present (.convertTemp mode b (mainValue mode b)) (.decQ8_4 b.tMsb b.tLsb)) := by
  obtain ⟨io, fo, raw, hExec, hValue⟩ := exec_mainDecoder mode b s
  refine ⟨decoderResult io fo raw, (step_of_encode hReq (mainDecoder_wellFormed _ mode b) hExec).trans ?_⟩
  simp only [react, State.setOut_phase, hPhase, State.setOut_out, decoded_decoderResult, hValue]

theorem step_convertTemp (hPhase : s.phase = .convertTemp mode b value) (hReq : s.req = encode s.cfg.wInt (.decQ8_4 b.tMsb b.tLsb)) :
    ∃ o, step s = .next (complete (.measured mode value (tempValue b)) (s.setOut o)) := by
  obtain ⟨io, fo, raw, hExec, hValue⟩ := exec_tempDecoder b s
  refine ⟨decoderResult io fo raw, (step_of_encode hReq rfl hExec).trans ?_⟩
  simp only [react, State.setOut_phase, hPhase, State.setOut_out, decoded_decoderResult, hValue]

end Conversions

/-- Settles O52: the decoders' results are the values in the block. -/
theorem conversionReturnsBothValues : Obligations.ConversionReturnsBothValues := by
  unfold Obligations.ConversionReturnsBothValues
  refine ⟨fun s mode b hPhase hReq => ?_, fun s mode b value hPhase hReq => ?_⟩
  · obtain ⟨o, hStep⟩ := step_convertMain hPhase (by cases mode <;> exact hReq)
    exact ⟨_, hStep, rfl, rfl, rfl, by cases mode <;> rfl⟩
  · obtain ⟨o, hStep⟩ := step_convertTemp hPhase hReq
    exact ⟨_, hStep, complete_trace _ _, complete_results _ _⟩

/-! Writes that fail, and the short operations (R244, R245). -/

section Writes

variable {s : State} {o : Outputs} {i : Instr} {bytes : List Byte} {e : Nat}

theorem react_configuring_of_writeError {u : State} {e : CallError} (hStage : s.phase.stage = .configuring)
    (hWrite : writeEncoded s = (.error e, u)) : react s = failCall e u := by
  unfold react
  cases hPhase : s.phase with
  | configMode | configEvent | configActive => simp only [hWrite]
  | _ => rw [hPhase] at hStage; cases hStage

theorem writeEncoded_setOut_busError (hOut : o.encoded = .ok bytes) (hBus : (busAnswer s).1 = some e) :
    writeEncoded (s.setOut o) = (.error (.bus e), (busWrite bytes (s.setOut o)).2) :=
  writeEncoded_busError (s.setOut o) bytes e hOut ((busAnswer_setOut_fst s o).trans hBus)

theorem busWrite_setOut_trace_eq : (busWrite bytes (s.setOut o)).2.trace = s.trace ++ [BusEvent.write bytes (busAnswer s).1] := by
  rw [busWrite_trace, busAnswer_setOut_fst, State.setOut_trace]

/-- A write of the configuration that fails ends the call with the bus's error. -/
theorem configuring_busError (hStage : s.phase.stage = .configuring) (hReq : s.req = encode s.cfg.wInt i)
    (hFits : i.WellFormed s.cfg.wInt) (hExec : exec i s = .next { s with out := o }) (hOut : o.encoded = .ok bytes)
    (hBus : (busAnswer s).1 = some e) :
    ∃ t, step s = .next t ∧ t.results = s.results ++ [CallResult.failed (.bus e)] ∧
      t.trace = s.trace ++ [BusEvent.write bytes (some e)] := by
  have hReact := react_configuring_of_writeError (s := s.setOut o) hStage (writeEncoded_setOut_busError hOut hBus)
  refine ⟨_, step_of_encode hReq hFits hExec, ?_, ?_⟩
  · simp only [hReact, failCall_results, busWrite_results, State.setOut_results]
  · simp only [hReact, failCall_trace, busWrite_setOut_trace_eq, hBus]

/-- The third write goes through and the first status read fails. -/
theorem configActive_readError {os : IntPort} {mode : PressureMode} {rest : List (Option Nat)}
    (hPhase : s.phase = .configActive os mode) (hReq : s.req = encode s.cfg.wInt i) (hFits : i.WellFormed s.cfg.wInt)
    (hExec : exec i s = .next { s with out := o }) (hOut : o.encoded = .ok bytes) (hReplies : s.busReplies = none :: some e :: rest) :
    ∃ t, step s = .next t ∧ t.results = s.results ++ [CallResult.failed (.bus e)] ∧
      t.trace = s.trace ++ [BusEvent.write bytes none, .sleep s.cfg.pollInterval, .readByteFailed 0x00 e] := by
  have hBus : (busAnswer s).1 = none := by rw [busAnswer_of_listed s _ _ hReplies]
  have hNextBus : (busAnswer (busWrite bytes (s.setOut o)).2).1 = some e := by
    rw [busAnswer_of_listed _ (some e) rest (by rw [busWrite_of_listed (s.setOut o) bytes none _ hReplies])]
  obtain ⟨hResults, hTrace⟩ := pollStatus_of_busError mode 0 hNextBus
  have hStep := step_of_encode hReq hFits hExec
  rw [react_configActive_of_written hPhase hOut hBus] at hStep
  refine ⟨_, hStep, ?_, ?_⟩
  · simp only [hResults, busWrite_results, State.setOut_results]
  · simp only [hTrace, busWrite_setOut_trace hBus, busWrite_cfg, State.setOut_cfg, List.append_assoc]
    rfl

/-- A short operation writes its encoder's bytes, and is done or fails with the bus. -/
theorem finishWrite_outcomes (hReact : react (s.setOut o) = finishWrite (s.setOut o)) (hReq : s.req = encode s.cfg.wInt i)
    (hFits : i.WellFormed s.cfg.wInt) (hExec : exec i s = .next { s with out := o }) (hOut : o.encoded = .ok bytes) :
    ((busAnswer s).1 = none → ∃ t, step s = .next t ∧
      t.trace = s.trace ++ [BusEvent.write bytes none] ∧ t.results = s.results ++ [CallResult.written]) ∧
    (∀ e, (busAnswer s).1 = some e → ∃ t, step s = .next t ∧
      t.trace = s.trace ++ [BusEvent.write bytes (some e)] ∧ t.results = s.results ++ [CallResult.failed (.bus e)]) := by
  have hStep := step_of_encode hReq hFits hExec
  rw [hReact, finishWrite] at hStep
  refine ⟨fun hBus => ?_, fun e hBus => ?_⟩
  · rw [writeEncoded_setOut_ok hOut hBus] at hStep
    refine ⟨_, hStep, ?_, ?_⟩
    · simp only [complete_trace, busWrite_setOut_trace_eq, hBus]
    · simp only [complete_results, busWrite_results, State.setOut_results]
  · simp only [writeEncoded_setOut_busError hOut hBus] at hStep
    refine ⟨_, hStep, ?_, ?_⟩
    · simp only [failCall_trace, busWrite_setOut_trace_eq, hBus]
    · simp only [failCall_results, busWrite_results, State.setOut_results]

theorem step_refused_of_encode {x : Refusal} (hReq : s.req = encode s.cfg.wInt i) (hFits : i.WellFormed s.cfg.wInt)
    (hExec : exec i s = .refused x) : step s = .refused x :=
  step_of_evaluate_refused ((evaluate_of_decode (hReq ▸ decode_encode hFits)).trans hExec)

end Writes

/-- Settles O53: whichever bus call of a measurement fails, its error is the call's result. -/
theorem busFailureFailsCall : Obligations.BusFailureFailsCall := by
  unfold Obligations.BusFailureFailsCall
  refine ⟨fun s os mode e hIn => ⟨fun hPhase hReq hBus => ?_, fun hPhase hReq hBus => ?_, fun hPhase hReq => ?_⟩,
    fun s mode n v e hPhase hReq => ⟨fun hWaiting hBound hBus => ?_, fun hReady hBus => ?_, ?_⟩⟩
  · obtain ⟨t, hStep, hResults, hTrace⟩ := configuring_busError (by rw [hPhase]; rfl) hReq (fitsIntPort_intOperand _ os)
      (exec_encCtrl1_of_inRange s (mode == .altimeter) false false hIn) (encoded_byteResult _ _) hBus
    exact ⟨t, _, hStep, modeByte_toNat mode hIn, hResults, hTrace⟩
  · exact configuring_busError (by rw [hPhase]; rfl) hReq rfl (exec_encEvent true true s) (encoded_byteResult _ _) hBus
  · have hExec := exec_encCtrl1_of_inRange s (mode == .altimeter) false true hIn
    rw [ctrl1Byte_active] at hExec
    refine ⟨_, modeByte_toNat mode hIn, fun hBus => ?_, ?_⟩
    · exact configuring_busError (by rw [hPhase]; rfl) hReq (fitsIntPort_intOperand _ os) hExec (encoded_byteResult _ _) hBus
    · rintro ⟨replies, hReplies⟩
      exact configActive_readError hPhase hReq (fitsIntPort_intOperand _ os) hExec (encoded_byteResult _ _) hReplies
  · obtain ⟨hResults, hTrace⟩ := pollStatus_of_busError (s := s.setOut (statusOutputs v)) mode n
      ((busAnswer_setOut_fst s _).trans hBus)
    exact ⟨_, step_polling_of_waiting hPhase hReq hWaiting (pollExhausted_eq_false hBound), hResults, hTrace⟩
  · obtain ⟨hResults, hTrace⟩ := readMeasurement_of_writeError (s := s.setOut (statusOutputs v)) mode
      ((busAnswer_setOut_fst s _).trans hBus)
    exact ⟨_, step_polling_of_ready hPhase hReq hReady, hResults, hTrace⟩
  · rintro hReady ⟨replies, hReplies⟩
    obtain ⟨hResults, hTrace⟩ := readMeasurement_of_readError (s := s.setOut (statusOutputs v)) mode hReplies
    exact ⟨_, step_polling_of_ready hPhase hReq hReady, hResults, hTrace⟩

/-- Settles O54: the write of ENC_RST's byte, after which the call is done whatever the bus answered. -/
theorem resetCallSuppressesBusFailure : Obligations.ResetCallSuppressesBusFailure := by
  unfold Obligations.ResetCallSuppressesBusFailure
  intro s hPhase hReq
  have hExec : exec (.encRst true) s = .next { s with out := byteResult 0x26 0x04 } := exec_encRst true s
  have hReact : react (s.setOut (byteResult 0x26 0x04)) =
      complete .written (busWrite [0x26, 0x04] (s.setOut (byteResult 0x26 0x04))).2 := by
    cases hBus : (busAnswer s).1 with
    | none => simp only [react, State.setOut_phase, hPhase, writeEncoded_setOut_ok (encoded_byteResult _ _) hBus]
    | some e => simp only [react, State.setOut_phase, hPhase, writeEncoded_setOut_busError (encoded_byteResult _ _) hBus]
  refine ⟨_, step_of_encode hReq rfl hExec, ?_, ?_⟩
  · simp only [hReact, complete_trace, busWrite_setOut_trace_eq]
  · simp only [hReact, complete_results, busWrite_results, State.setOut_results]

/-- ENC_BAR_IN of a pressure that is not refused: its half, or the low 16 bits of it (R191). -/
theorem exec_encBarIn_of_accepted (s : State) {p : Int} (h : 0 ≤ p ∧ (p ≤ 131071 ∨ s.cfg.barInOverflow = .wrap)) :
    ∃ hi lo : Byte, exec (.encBarIn p) s = .next { s with out := twoByteResult 0x14 hi lo } ∧
      (256 * hi.toNat + lo.toNat : Int) = p / 2 % 65536 := by
  obtain ⟨hFits, hWrap, -, -⟩ := encBarInResult.2 s p
  obtain ⟨hNonneg, hAccepted⟩ := h
  rcases le_or_gt p 131071 with hLow | hHigh
  · obtain ⟨hi, lo, hExec, hBytes⟩ := hFits ⟨hNonneg, hLow⟩
    exact ⟨hi, lo, hExec, by omega⟩
  · exact hWrap hHigh (hAccepted.resolve_left (not_le.2 hHigh))

theorem exec_defSlp (s : State) : exec .defSlp s = .next { s with out := integerResult 101326 } := rfl

theorem react_gettingSeaLevel {s : State} {o : Outputs} {io : BitVec 32} (hPhase : s.phase = .gettingSeaLevel)
    (hOut : o.io = some io) : react (s.setOut o) = complete (.seaLevel io.toNat) (s.setOut o) := by
  simp only [react, State.setOut_phase, hPhase, State.setOut_out, hOut]

/-- Settles O55: setting writes the encoder's two bytes or is refused with it, and getting returns DEF_SLP's integer. -/
theorem seaLevelCalls : Obligations.SeaLevelCalls := by
  unfold Obligations.SeaLevelCalls
  refine ⟨fun s pa hPhase hReq => ?_, fun s hPhase hReq => ?_⟩
  · have hFits : (Instr.encBarIn (intOperand s.cfg.wInt pa)).WellFormed s.cfg.wInt := fitsIntPort_intOperand _ pa
    refine ⟨fun hAccepted => ?_, fun hNeg => ?_, fun hWide hCfg => ?_⟩
    · obtain ⟨hi, lo, hExec, hBytes⟩ := exec_encBarIn_of_accepted s hAccepted
      refine ⟨hi, lo, hBytes, finishWrite_outcomes ?_ hReq hFits hExec (encoded_twoByteResult _ _ _)⟩
      simp only [react, State.setOut_phase, hPhase]
    · exact step_refused_of_encode hReq hFits (exec_encBarIn_of_neg s hNeg)
    · exact step_refused_of_encode hReq hFits (exec_encBarIn_of_refuse s hWide hCfg)
  · have hStep := step_of_encode hReq rfl (exec_defSlp s)
    rw [react_gettingSeaLevel hPhase rfl] at hStep
    exact ⟨_, hStep, complete_trace _ _, complete_results _ _⟩

/-- Settles O56: the three compensations end in the write of what their encoder put on the ports. -/
theorem compensationCalls : Obligations.CompensationCalls := by
  unfold Obligations.CompensationCalls
  intro s i hCall hReq
  have hFits : i.WellFormed s.cfg.wInt := by
    rcases hCall with ⟨h, -, rfl⟩ | ⟨p, -, rfl⟩ | ⟨q, -, rfl⟩
    · exact fitsIntPort_intOperand _ h
    · exact fitsIntPort_intOperand _ p
    · rfl
  have hReact (o : Outputs) : react (s.setOut o) = finishWrite (s.setOut o) := by
    rcases hCall with ⟨_, hPhase, -⟩ | ⟨_, hPhase, -⟩ | ⟨_, hPhase, -⟩ <;> simp only [react, State.setOut_phase, hPhase]
  refine ⟨fun a y hExec => ?_, fun hExec => ?_, fun x hExec => ?_⟩
  · exact finishWrite_outcomes (hReact _) hReq hFits hExec (encoded_byteResult a y)
  · have hStep := step_of_encode hReq hFits hExec
    rw [hReact, finishWrite, writeEncoded_error _ .range encoded_errRange] at hStep
    exact ⟨_, hStep, failCall_trace _ _, failCall_results _ _⟩
  · exact step_refused_of_encode hReq hFits hExec

/-! Runs of steps. -/

theorem runSteps_succ {s t : State} (k : Nat) (h : step s = .next t) : runSteps (k + 1) s = runSteps k t := by
  rw [runSteps, h]

theorem runSteps_add {s t : State} {m : Nat} (n : Nat) (h : runSteps m s = .next t) : runSteps (m + n) s = runSteps n t := by
  induction m generalizing s with
  | zero =>
    cases h
    rw [Nat.zero_add]
  | succ m ih =>
    rw [runSteps] at h
    rw [Nat.succ_add, runSteps]
    cases hStep : step s with
    | next u =>
      rw [hStep] at h
      exact ih h
    | fault f => exact nomatch f
    | refused r =>
      rw [hStep] at h
      cases h

/-- From `s` to `t` the call under way went on: the host did the actions `l`, no call ended, and it stands in `ph` with `i` on the ports,
with `replies` and `dev` the answers of the bus and the bytes of the device still to come. -/
structure Underway (s t : State) (l : List BusEvent) (replies : List (Option Nat)) (dev : List Byte) (ph : Phase) (i : Instr) :
    Prop where
  cfg : t.cfg = s.cfg
  results : t.results = s.results
  trace : t.trace = s.trace ++ l
  busReplies : t.busReplies = replies
  devBytes : t.devBytes = dev
  phase : t.phase = ph
  req : t.req = encode s.cfg.wInt i

section Run

variable {s t : State} {l : List BusEvent} {replies : List (Option Nat)} {dev : List Byte} {os : IntPort} {mode : PressureMode}

theorem underway_refl {ph : Phase} {i : Instr} (hReplies : s.busReplies = replies) (hDev : s.devBytes = dev) (hPhase : s.phase = ph)
    (hReq : s.req = encode s.cfg.wInt i) : Underway s s [] replies dev ph i :=
  ⟨rfl, rfl, (List.append_nil _).symm, hReplies, hDev, hPhase, hReq⟩

/-- One of the first two writes of a measurement, with the bus's answer listed. -/
theorem Underway.step_write {ph ph' : Phase} {i i' : Instr} {a y : Byte} (h : Underway s t l (none :: replies) dev ph i)
    (hFits : i.WellFormed t.cfg.wInt) (hExec : exec i t = .next { t with out := byteResult a y })
    (hReact : (busAnswer t).1 = none →
      react (t.setOut (byteResult a y)) = (busWrite [a, y] (t.setOut (byteResult a y))).2.present ph' i') :
    ∃ u, step t = .next u ∧ Underway s u (l ++ [BusEvent.write [a, y] none]) replies dev ph' i' := by
  obtain ⟨hCfg, hResults, hTrace, hReplies, hDev, -, hReq⟩ := h
  have hStep := step_of_encode (hCfg ▸ hReq) hFits hExec
  rw [hReact (by rw [busAnswer_of_listed t _ _ hReplies]),
    busWrite_of_listed (t.setOut (byteResult a y)) [a, y] none replies hReplies] at hStep
  exact ⟨_, hStep, hCfg, hResults, by simp [hTrace], rfl, hDev, rfl, by simp [hCfg]⟩

/-- The third write and the first status read, with the bus's answers and the byte listed. -/
theorem Underway.step_configActive {i : Instr} {y b : Byte}
    (h : Underway s t l (none :: none :: replies) (b :: dev) (.configActive os mode) i)
    (hFits : i.WellFormed t.cfg.wInt) (hExec : exec i t = .next { t with out := byteResult 0x26 y }) :
    ∃ u, step t = .next u ∧ Underway s u (l ++ [BusEvent.write [0x26, y] none, .sleep s.cfg.pollInterval, .readByte 0x00 b]) replies dev
      (.polling mode 1) (.decStatus b) := by
  obtain ⟨hCfg, hResults, hTrace, hReplies, hDev, hPhase, hReq⟩ := h
  have hStep := step_of_encode (hCfg ▸ hReq) hFits hExec
  rw [react_configActive_of_listed hPhase (encoded_byteResult _ _) hReplies hDev] at hStep
  exact ⟨_, hStep, hCfg, hResults, by simp [hTrace, hCfg], rfl, rfl, rfl, by simp [hCfg]⟩

/-- A turn of the poll. -/
theorem Underway.step_poll {v b : Byte} {n : Nat} (h : Underway s t l (none :: replies) (b :: dev) (.polling mode n) (.decStatus v))
    (hWaiting : v.toNat / 8 % 2 = 0) (hBound : pollExhausted s.cfg.pollMax n = false) :
    ∃ u, step t = .next u ∧ Underway s u (l ++ [BusEvent.sleep s.cfg.pollInterval, .readByte 0x00 b]) replies dev
      (.polling mode (n + 1)) (.decStatus b) := by
  obtain ⟨hCfg, hResults, hTrace, hReplies, hDev, hPhase, hReq⟩ := h
  exact ⟨_, step_polling_of_listed hPhase (hCfg ▸ hReq) hWaiting (hCfg ▸ hBound) hReplies hDev, hCfg, hResults,
    by simp [hTrace, hCfg], rfl, rfl, rfl, by simp [hCfg]⟩

/-- The read of the block. -/
theorem Underway.step_block {v : Byte} {n : Nat} {b : MeasBlock}
    (h : Underway s t l (none :: none :: replies) (b.bytes ++ dev) (.polling mode n) (.decStatus v))
    (hReady : v.toNat / 8 % 2 = 1) :
    ∃ u, step t = .next u ∧ Underway s u (l ++ [BusEvent.write [0x00] none, .readBytes (some 0x00) b.bytes]) replies dev
      (.convertMain mode b) (mode.decoder b) := by
  obtain ⟨hCfg, hResults, hTrace, hReplies, hDev, hPhase, hReq⟩ := h
  exact ⟨_, step_polling_of_ready_listed hPhase (hCfg ▸ hReq) hReady hReplies hDev, hCfg, hResults,
    by simp [hTrace], rfl, rfl, rfl, by simp [hCfg]⟩

/-- The first conversion. -/
theorem Underway.step_convertMain {b : MeasBlock} (h : Underway s t l replies dev (.convertMain mode b) (mode.decoder b)) :
    ∃ u, step t = .next u ∧
      Underway s u l replies dev (.convertTemp mode b (mainValue mode b)) (.decQ8_4 b.tMsb b.tLsb) := by
  obtain ⟨hCfg, hResults, hTrace, hReplies, hDev, hPhase, hReq⟩ := h
  obtain ⟨o, hStep⟩ := Machine.step_convertMain hPhase (hCfg ▸ hReq)
  exact ⟨_, hStep, hCfg, hResults, hTrace, hReplies, hDev, rfl, by simp [hCfg]⟩

/-- The second conversion ends the measurement. -/
theorem Underway.step_convertTemp {b : MeasBlock} {value : Rat}
    (h : Underway s t l replies dev (.convertTemp mode b value) (.decQ8_4 b.tMsb b.tLsb)) :
    ∃ u, step t = .next u ∧ u.trace = s.trace ++ l ∧ u.results = s.results ++ [CallResult.measured mode value (tempValue b)] := by
  obtain ⟨hCfg, hResults, hTrace, -, -, hPhase, hReq⟩ := h
  obtain ⟨o, hStep⟩ := Machine.step_convertTemp hPhase (hCfg ▸ hReq)
  exact ⟨_, hStep, by simp [hTrace], by simp [hResults]⟩

/-- R238 to R240: the three writes and the first status read. -/
theorem Underway.run_configure {b : Byte}
    (h : Underway s t l (none :: none :: none :: none :: replies) (b :: dev) (.configMode os mode)
      (.encCtrl1 (intOperand s.cfg.wInt os) (mode == .altimeter) false false))
    (hIn : 0 ≤ intOperand s.cfg.wInt os ∧ intOperand s.cfg.wInt os ≤ 7) :
    ∃ u, runSteps 3 t = .next u ∧ Underway s u (l ++
      [BusEvent.write [0x26, ctrl1Byte (intOperand s.cfg.wInt os) (mode == .altimeter) false false] none, .write [0x13, 0x07] none,
        .write [0x26, ctrl1Byte (intOperand s.cfg.wInt os) (mode == .altimeter) false false ||| 0x01] none,
        .sleep s.cfg.pollInterval, .readByte 0x00 b]) replies dev (.polling mode 1) (.decStatus b) := by
  have hFits (alt rst active : Bool) {u : State} (hCfg : u.cfg = s.cfg) :
      (Instr.encCtrl1 (intOperand s.cfg.wInt os) alt rst active).WellFormed u.cfg.wInt := hCfg ▸ fitsIntPort_intOperand _ os
  obtain ⟨t1, hStep1, h1⟩ := h.step_write (hFits _ _ _ h.cfg) (exec_encCtrl1_of_inRange t _ _ _ hIn)
    (react_configMode_of_written h.phase (encoded_byteResult _ _))
  have hEvent : exec (.encEvent true true) t1 = .next { t1 with out := byteResult 0x13 0x07 } := exec_encEvent true true t1
  obtain ⟨t2, hStep2, h2⟩ := h1.step_write rfl hEvent
    (react_configEvent_of_written h1.phase (encoded_byteResult _ _))
  rw [h1.cfg, isAltimeter_eq_beq] at h2
  obtain ⟨t3, hStep3, h3⟩ := h2.step_configActive (hFits _ _ _ h2.cfg) (exec_encCtrl1_of_inRange t2 _ _ _ hIn)
  refine ⟨t3, ?_, ?_⟩
  · rw [runSteps_succ 2 hStep1, runSteps_succ 1 hStep2, runSteps_succ 0 hStep3]
    rfl
  · rw [ctrl1Byte_active] at h3
    simpa using h3

/-- What a turn of the poll leaves in the trace (R241). -/
def pollEvents (c : Config) (v : Byte) : List BusEvent := [BusEvent.sleep c.pollInterval, .readByte 0x00 v]

/-- R241: as many turns of the poll as there are status bytes with the ready bit clear, `waits`, the first of which is on the ports;
`last` is on them in the end. -/
theorem Underway.run_poll {v last : Byte} {reads : Nat} {waits rest : List Byte} (hStatuses : waits ++ [last] = v :: rest)
    (hWaits : ∀ x ∈ waits, x.toNat / 8 % 2 = 0) (hBound : ∀ n < reads + rest.length, pollExhausted s.cfg.pollMax n = false)
    (h : Underway s t l (List.replicate rest.length none ++ replies) (rest ++ dev) (.polling mode reads) (.decStatus v)) :
    ∃ u, runSteps rest.length t = .next u ∧
      Underway s u (l ++ rest.flatMap (pollEvents s.cfg)) replies dev (.polling mode (reads + rest.length)) (.decStatus last) := by
  induction waits generalizing v rest t l reads with
  | nil =>
    cases hStatuses
    exact ⟨t, rfl, by simpa using h⟩
  | cons x xs ih =>
    obtain ⟨hx, hxs⟩ := List.forall_mem_cons.1 hWaits
    obtain ⟨rfl, hRest⟩ := List.cons.inj hStatuses
    cases rest with
    | nil => cases xs <;> cases hRest
    | cons b rest =>
      have hLength : reads + 1 + rest.length = reads + (rest.length + 1) := by omega
      obtain ⟨t', hStep, h'⟩ := Underway.step_poll h hx (hBound reads (by simp))
      obtain ⟨u, hRun, hu⟩ := ih hRest hxs (hLength ▸ hBound) h'
      refine ⟨u, (runSteps_succ _ hStep).trans hRun, ?_⟩
      rw [hLength] at hu
      simpa [pollEvents] using hu

/-- R242, R243: the read of the block and the two conversions. -/
theorem Underway.run_read {v : Byte} {n : Nat} {b : MeasBlock}
    (h : Underway s t l (none :: none :: replies) (b.bytes ++ dev) (.polling mode n) (.decStatus v))
    (hReady : v.toNat / 8 % 2 = 1) :
    ∃ u, runSteps 3 t = .next u ∧ u.trace = s.trace ++ (l ++ [BusEvent.write [0x00] none, .readBytes (some 0x00) b.bytes]) ∧
      u.results = s.results ++ [CallResult.measured mode (mainValue mode b) (tempValue b)] := by
  obtain ⟨t1, hStep1, h1⟩ := h.step_block hReady
  obtain ⟨t2, hStep2, h2⟩ := h1.step_convertMain
  obtain ⟨t3, hStep3, hTrace, hResults⟩ := h2.step_convertTemp
  refine ⟨t3, ?_, hTrace, hResults⟩
  rw [runSteps_succ 2 hStep1, runSteps_succ 1 hStep2, runSteps_succ 0 hStep3]
  rfl

end Run

/-- Settles O59: each turn reads a byte with the ready bit clear, and nothing bounds the turns. -/
theorem unboundedPollMayNeverEnd : Obligations.UnboundedPollMayNeverEnd := by
  unfold Obligations.UnboundedPollMayNeverEnd
  intro s mode reads n v hPhase hReq hWaiting hMax hReplies hDev
  have hStatuses : List.replicate n v ++ [v] = v :: List.replicate n v := by
    rw [← List.replicate_succ', List.replicate_succ]
  have hStart : Underway s s [] (List.replicate (List.replicate n v).length none ++ []) (List.replicate n v ++ [])
      (.polling mode reads) (.decStatus v) := underway_refl (by simpa using hReplies) (by simpa using hDev) hPhase hReq
  obtain ⟨t, hRun, ht⟩ := hStart.run_poll hStatuses (fun x hx => List.eq_of_mem_replicate hx ▸ hWaiting)
    (fun _ _ => pollExhausted_eq_false (.inl hMax))
  rw [List.length_replicate] at hRun ht
  exact ⟨t, hRun, ht.phase, ht.results⟩

/-- Settles O58: the configuration reads the first status byte, a turn of the poll each further one, and the last lets the host read the
block. -/
theorem measurementEndToEnd : Obligations.MeasurementEndToEnd := by
  unfold Obligations.MeasurementEndToEnd
  intro s os mode waits ready b replies bytes hPhase hReq hIn hWaits hReady hMax hReplies hDev
  obtain ⟨v, rest, hStatuses⟩ := List.exists_cons_of_ne_nil (List.append_ne_nil_of_right_ne_nil waits (List.cons_ne_nil ready []))
  have hLength : rest.length = waits.length := by simpa using (congrArg List.length hStatuses).symm
  have hBound : ∀ n < 1 + rest.length, pollExhausted s.cfg.pollMax n = false := fun n hn =>
    pollExhausted_eq_false (hMax.imp_right fun ⟨m, hm, hBelow⟩ => ⟨m, hm, by omega⟩)
  have hStart : Underway s s [] (none :: none :: none :: none :: (List.replicate rest.length none ++ (none :: none :: replies)))
      (v :: (rest ++ (b.bytes ++ bytes))) (.configMode os mode)
      (.encCtrl1 (intOperand s.cfg.wInt os) (mode == .altimeter) false false) := by
    refine underway_refl ?_ ?_ hPhase hReq
    · rw [hReplies, ← hLength, show rest.length + 6 = 4 + (rest.length + 2) by omega, List.replicate_add, List.replicate_add]
      simp [List.replicate_succ]
    · rw [← List.cons_append, ← hStatuses, hDev]
      simp [MeasBlock.bytes]
  obtain ⟨t1, hRun1, h1⟩ := hStart.run_configure hIn
  obtain ⟨t2, hRun2, h2⟩ := h1.run_poll hStatuses hWaits hBound
  obtain ⟨t3, hRun3, hTrace, hResults⟩ := h2.run_read hReady
  refine ⟨t3, _, ?_, modeByte_toNat mode hIn, ?_, ?_⟩
  · rw [show waits.length + 6 = 3 + (rest.length + 3) by omega, runSteps_add _ hRun1, runSteps_add _ hRun2, hRun3]
  · rw [hTrace, hStatuses]
    simp only [List.flatMap_cons, List.nil_append, List.cons_append, List.append_assoc]
    rfl
  · rw [hResults]
    cases mode <;> rfl

end Sys2Proof.Machine
end

section
/-! PROOFS. The literals of R76: what digits denote, and where a separator or a sign stands. -/

namespace Sys2Proof.Machine

/-! The pieces between separators. -/

theorem piecesAt_ne_nil (sep : Char) (cs : List Char) : piecesAt sep cs ≠ [] := by
  cases cs with
  | nil => exact List.cons_ne_nil _ _
  | cons c cs =>
    unfold piecesAt
    split
    · exact List.cons_ne_nil _ _
    · split <;> exact List.cons_ne_nil _ _

theorem piecesAt_cons_self (sep : Char) (cs : List Char) : piecesAt sep (sep :: cs) = [] :: piecesAt sep cs := by
  obtain ⟨w, ws, h⟩ := List.exists_cons_of_ne_nil (piecesAt_ne_nil sep cs)
  simp [piecesAt, h]

theorem piecesAt_cons_of_ne {sep c : Char} {cs w : List Char} {ws : List (List Char)} (hc : c ≠ sep)
    (h : piecesAt sep cs = w :: ws) : piecesAt sep (c :: cs) = (c :: w) :: ws := by
  simp [piecesAt, h, hc]

theorem piecesAt_of_not_mem {sep : Char} {cs : List Char} (h : sep ∉ cs) : piecesAt sep cs = [cs] := by
  induction cs with
  | nil => rfl
  | cons c cs ih =>
    obtain ⟨hc, hcs⟩ := List.ne_and_not_mem_of_not_mem_cons h
    exact piecesAt_cons_of_ne hc.symm (ih hcs)

/-- The first separator ends the first piece. -/
theorem piecesAt_append {sep : Char} {xs : List Char} (h : sep ∉ xs) (ys : List Char) :
    piecesAt sep (xs ++ sep :: ys) = xs :: piecesAt sep ys := by
  induction xs with
  | nil => exact piecesAt_cons_self sep ys
  | cons c cs ih =>
    obtain ⟨hc, hcs⟩ := List.ne_and_not_mem_of_not_mem_cons h
    exact piecesAt_cons_of_ne hc.symm (ih hcs)

/-! Digits. -/

theorem digitValue_digitChar {base d : Nat} (hBase : base ≤ 16) (hd : d < base) : digitValue base (Nat.digitChar d) = some d := by
  have hDigit : d < 16 := hd.trans_le hBase
  interval_cases d <;> simp [digitValue, Nat.digitChar, hd]

theorem digitsFrom_digitsText {base : Nat} (hBase : base ≤ 16) {ds : List Nat} (hds : ∀ d ∈ ds, d < base) (acc : Nat) :
    digitsFrom base acc (digitsText ds) = some (ds.foldl (fun n d => base * n + d) acc) := by
  induction ds generalizing acc with
  | nil => rfl
  | cons d ds ih =>
    obtain ⟨hd, hds⟩ := List.forall_mem_cons.1 hds
    have hDigit := digitValue_digitChar hBase hd
    rw [digitsText, List.map_cons, digitsFrom, hDigit]
    exact ih hds _

theorem parseDigits_digitsText {base : Nat} (hBase : base ≤ 16) {ds : List Nat} (h : IsDigits base ds) :
    parseDigits base (digitsText ds) = some (digitsValue base ds) := by
  obtain ⟨hNe, hds⟩ := h
  cases ds with
  | nil => exact absurd rfl hNe
  | cons d ds => exact digitsFrom_digitsText hBase hds 0

/-- A character that is no digit of the base does not stand in a text of digits. -/
theorem not_mem_digitsText {base : Nat} (hBase : base ≤ 16) {ds : List Nat} (hds : ∀ d ∈ ds, d < base) {c : Char}
    (hc : digitValue base c = none) : c ∉ digitsText ds := by
  intro hMem
  obtain ⟨d, hd, rfl⟩ := List.mem_map.1 hMem
  exact nomatch hc.symm.trans (digitValue_digitChar hBase (hds d hd))

theorem takeSign_of_unsigned {cs : List Char} (hMinus : '-' ∉ cs) (hPlus : '+' ∉ cs) : takeSign cs = (false, cs) := by
  unfold takeSign
  split
  · exact absurd (List.mem_cons_self ..) hMinus
  · exact absurd (List.mem_cons_self ..) hPlus
  · rfl

theorem parseInteger_of_not_hex {cs : List Char} (h : 'x' ∉ cs) :
    parseInteger cs = (parseDigits 10 (takeSign cs).2).map (withSign (takeSign cs).1) := by
  unfold parseInteger
  split
  · exact absurd (List.mem_cons_of_mem _ (List.mem_cons_self ..)) h
  · rfl

section Decimal

variable {ds fs : List Nat} (h : IsDigits 10 ds) (hf : IsDigits 10 fs)
include h

theorem decimalText_not_mem {c : Char} (hc : digitValue 10 c = none) : c ∉ digitsText ds :=
  not_mem_digitsText (by decide) h.2 hc

theorem parseInteger_decimal : parseInteger (digitsText ds) = some (digitsValue 10 ds : Int) := by
  rw [parseInteger_of_not_hex (decimalText_not_mem h rfl),
    takeSign_of_unsigned (decimalText_not_mem h rfl) (decimalText_not_mem h rfl), parseDigits_digitsText (by decide) h]
  rfl

theorem parseInteger_negative : parseInteger ('-' :: digitsText ds) = some (-(digitsValue 10 ds : Int)) := by
  have hx : 'x' ∉ '-' :: digitsText ds := List.not_mem_cons_of_ne_of_not_mem (by decide) (decimalText_not_mem h rfl)
  rw [parseInteger_of_not_hex hx, takeSign, parseDigits_digitsText (by decide) h]
  rfl

/-- The number a signed text denotes, once its body is known to be two digit texts around a point (R76). -/
theorem parseCelsius_fraction {cs : List Char} {negative : Bool} (hf : IsDigits 10 fs)
    (hSign : takeSign cs = (negative, digitsText ds ++ '.' :: digitsText fs)) :
    parseCelsius cs = some (mkRat (withSign negative (digitsValue 10 ds * 10 ^ fs.length + digitsValue 10 fs)) (10 ^ fs.length)) := by
  have hSlash : '/' ∉ digitsText ds ++ '.' :: digitsText fs := by
    simp [decimalText_not_mem h (c := '/') rfl, decimalText_not_mem hf (c := '/') rfl]
  have hPoint : piecesAt '.' (digitsText ds ++ '.' :: digitsText fs) = [digitsText ds, digitsText fs] := by
    rw [piecesAt_append (decimalText_not_mem h rfl), piecesAt_of_not_mem (decimalText_not_mem hf rfl)]
  have hLength : (digitsText fs).length = fs.length := List.length_map _
  simp only [parseCelsius, hSign, piecesAt_of_not_mem hSlash, hPoint, parseDigits_digitsText (by decide) h,
    parseDigits_digitsText (by decide) hf, hLength]

/-- The same with a slash. -/
theorem parseCelsius_quotient {cs : List Char} {negative : Bool} (hf : IsDigits 10 fs) (hNe : digitsValue 10 fs ≠ 0)
    (hSign : takeSign cs = (negative, digitsText ds ++ '/' :: digitsText fs)) :
    parseCelsius cs = some (mkRat (withSign negative (digitsValue 10 ds)) (digitsValue 10 fs)) := by
  have hSlash : piecesAt '/' (digitsText ds ++ '/' :: digitsText fs) = [digitsText ds, digitsText fs] := by
    rw [piecesAt_append (decimalText_not_mem h rfl), piecesAt_of_not_mem (decimalText_not_mem hf rfl)]
  simp only [parseCelsius, hSign, hSlash, parseDigits_digitsText (by decide) h, parseDigits_digitsText (by decide) hf, if_neg hNe]

theorem takeSign_separated {sep : Char} (hf : IsDigits 10 fs) (hMinus : '-' ≠ sep) (hPlus : '+' ≠ sep) :
    takeSign (digitsText ds ++ sep :: digitsText fs) = (false, digitsText ds ++ sep :: digitsText fs) := by
  refine takeSign_of_unsigned ?_ ?_
  · simp [decimalText_not_mem h (c := '-') rfl, decimalText_not_mem hf (c := '-') rfl, hMinus]
  · simp [decimalText_not_mem h (c := '+') rfl, decimalText_not_mem hf (c := '+') rfl, hPlus]

end Decimal

theorem parseInteger_hex {ds : List Nat} (h : IsDigits 16 ds) :
    parseInteger ('0' :: 'x' :: digitsText ds) = some (digitsValue 16 ds : Int) := by
  rw [parseInteger, parseDigits_digitsText (le_refl 16) h]
  rfl

theorem mkRat_quotient (negative : Bool) (a b : Nat) :
    mkRat (withSign negative a) b = if negative then -((a : Rat) / (b : Rat)) else (a : Rat) / (b : Rat) := by
  cases negative <;> simp [Rat.mkRat_eq_div, withSign, neg_div]

/-- The digits before and after a point, read together and scaled. -/
theorem mkRat_decimal (negative : Bool) (a b k : Nat) :
    mkRat (withSign negative (a * 10 ^ k + b)) (10 ^ k) =
      if negative then -((a : Rat) + (b : Rat) / 10 ^ k) else (a : Rat) + (b : Rat) / 10 ^ k := by
  have hScaled : ((a * 10 ^ k + b : Nat) : Rat) / ((10 ^ k : Nat) : Rat) = (a : Rat) + (b : Rat) / 10 ^ k := by
    push_cast
    field_simp
  rw [mkRat_quotient, hScaled]

end Sys2Proof.Machine
end

section
/-! PROOFS. The assembler of R76: it accepts exactly the lines whose first word is a mnemonic of R71 and whose operand texts are literals
of its operands, and a line written as R76 has it is such a line. -/

namespace Sys2Proof.Machine

/-! What each operand reader accepts. -/

theorem except_bind_eq_ok_iff {ε α β : Type} {x : Except ε α} {f : α → Except ε β} {r : β} :
    (x >>= f) = .ok r ↔ ∃ a, x = .ok a ∧ f a = .ok r := by
  cases x with
  | ok a => simp [bind, Except.bind]
  | error e => simp [bind, Except.bind]

theorem need_eq_ok_iff {α : Type} {e : AsmError} {x : Option α} {a : α} : need e x = .ok a ↔ x = some a := by
  cases x <;> simp [need]

theorem parsePort_eq_some_iff {n : Nat} {cs : List Char} {b : BitVec n} : parsePort n cs = some b ↔ ReadsPort n cs b := by
  unfold parsePort ReadsPort
  cases parseInteger cs with
  | none => simp
  | some i =>
    simp only [Option.some.injEq, bits, exists_eq_left']
    split
    · next h => simp [h, eq_comm]
    · next h => simp only [reduceCtorEq, false_iff]; tauto

theorem byteOperand_eq_ok_iff {cs : List Char} {b : Byte} : byteOperand cs = .ok b ↔ ReadsPort 8 cs b :=
  need_eq_ok_iff.trans parsePort_eq_some_iff

theorem integerOperand_eq_ok_iff {w : Nat} {cs : List Char} {i : Int} : integerOperand w cs = .ok i ↔ ReadsInteger w cs i := by
  unfold integerOperand ReadsInteger
  simp only [← parsePort_eq_some_iff]
  cases parsePort w cs <;> simp [need, Except.map, eq_comm]

theorem booleanOperand_eq_ok_iff {cs : List Char} {b : Bool} :
    booleanOperand cs = .ok b ↔ cs = [if b then '1' else '0'] := by
  rw [booleanOperand, need_eq_ok_iff]
  unfold parseBoolean
  split
  · cases b <;> simp
  · cases b <;> simp
  · next h0 h1 =>
    cases b with
    | false => exact iff_of_false nofun h0
    | true => exact iff_of_false nofun h1

theorem celsiusOperand_eq_ok_iff {cs : List Char} {q : Rat} : celsiusOperand cs = .ok q ↔ parseCelsius cs = some q :=
  need_eq_ok_iff

theorem except_pure_eq_ok_iff {ε α : Type} {a b : α} : (pure a : Except ε α) = .ok b ↔ a = b := Except.ok.injEq a b ▸ Iff.rfl

/-- The operands of an operation code are read in the order of R71's row. -/
theorem assembleOp_eq_ok_iff {w code : Nat} {texts : List (List Char)} {i : Instr} :
    assembleOp w code texts = .ok i ↔ code = (encode w i).op.toNat ∧ OperandsRead w i texts := by
  constructor
  · intro h
    unfold assembleOp at h
    split at h
    case h_14 => cases h; exact ⟨rfl, rfl⟩
    case h_18 => cases h
    all_goals
      simp only [except_bind_eq_ok_iff, byteOperand_eq_ok_iff, integerOperand_eq_ok_iff, booleanOperand_eq_ok_iff,
        celsiusOperand_eq_ok_iff, except_pure_eq_ok_iff] at h
    case h_1 | h_2 =>
      obtain ⟨b0, hx, b1, hy, b2, hz, rfl⟩ := h
      exact ⟨rfl, _, _, _, rfl, hx, hy, hz⟩
    case h_3 =>
      obtain ⟨b0, hx, b1, hy, rfl⟩ := h
      exact ⟨rfl, _, _, rfl, hx, hy⟩
    case h_5 | h_6 | h_7 =>
      obtain ⟨b, rfl, rfl⟩ := h
      exact ⟨rfl, rfl⟩
    case h_8 =>
      obtain ⟨temp, rfl, pres, rfl, rfl⟩ := h
      exact ⟨rfl, rfl⟩
    case h_9 =>
      obtain ⟨os, ho, alt, rfl, rst, rfl, active, rfl, rfl⟩ := h
      exact ⟨rfl, _, rfl, ho⟩
    all_goals
      obtain ⟨a, hx, rfl⟩ := h
      exact ⟨rfl, _, rfl, hx⟩
  · rintro ⟨rfl, h⟩
    cases i with
    | decQ16_4 | decQ18_2 =>
      obtain ⟨x, y, z, rfl, hx, hy, hz⟩ := h
      exact except_bind_eq_ok_iff.2 ⟨_, byteOperand_eq_ok_iff.2 hx, except_bind_eq_ok_iff.2 ⟨_, byteOperand_eq_ok_iff.2 hy,
        except_bind_eq_ok_iff.2 ⟨_, byteOperand_eq_ok_iff.2 hz, rfl⟩⟩⟩
    | decQ8_4 =>
      obtain ⟨x, y, rfl, hx, hy⟩ := h
      exact except_bind_eq_ok_iff.2 ⟨_, byteOperand_eq_ok_iff.2 hx, except_bind_eq_ok_iff.2 ⟨_, byteOperand_eq_ok_iff.2 hy, rfl⟩⟩
    | encOs | encBarIn | encOffH | encOffP =>
      obtain ⟨x, rfl, hx⟩ := h
      exact except_bind_eq_ok_iff.2 ⟨_, integerOperand_eq_ok_iff.2 hx, rfl⟩
    | encAlt | encRst | encSbyb =>
      cases h
      exact except_bind_eq_ok_iff.2 ⟨_, booleanOperand_eq_ok_iff.2 rfl, rfl⟩
    | encEvent =>
      cases h
      exact except_bind_eq_ok_iff.2 ⟨_, booleanOperand_eq_ok_iff.2 rfl, except_bind_eq_ok_iff.2
        ⟨_, booleanOperand_eq_ok_iff.2 rfl, rfl⟩⟩
    | encCtrl1 =>
      obtain ⟨x, rfl, hx⟩ := h
      exact except_bind_eq_ok_iff.2 ⟨_, integerOperand_eq_ok_iff.2 hx, except_bind_eq_ok_iff.2
        ⟨_, booleanOperand_eq_ok_iff.2 rfl, except_bind_eq_ok_iff.2 ⟨_, booleanOperand_eq_ok_iff.2 rfl,
          except_bind_eq_ok_iff.2 ⟨_, booleanOperand_eq_ok_iff.2 rfl, rfl⟩⟩⟩⟩
    | decCtrl1 | decStatus | regWidth =>
      obtain ⟨x, rfl, hx⟩ := h
      exact except_bind_eq_ok_iff.2 ⟨_, byteOperand_eq_ok_iff.2 hx, rfl⟩
    | defSlp =>
      cases h
      rfl
    | encOffT =>
      obtain ⟨x, rfl, hx⟩ := h
      exact except_bind_eq_ok_iff.2 ⟨_, celsiusOperand_eq_ok_iff.2 hx, rfl⟩

/-! The line. -/

theorem opcodeTable_mnemonics_nodup : (opcodeTable.map OpcodeRow.mnemonic).Nodup := by decide

/-- A mnemonic of the table is one word: it has a letter, and no blank or `;`. -/
theorem mnemonic_word : ∀ row ∈ opcodeTable,
    row.mnemonic.toList ≠ [] ∧ ∀ c ∈ row.mnemonic.toList, c ≠ ';' ∧ isBlank c = false := by
  simp [opcodeTable, isBlank]

theorem row_eq_of_mnemonic_eq {row row' : OpcodeRow} (h : row ∈ opcodeTable) (h' : row' ∈ opcodeTable)
    (hMnemonic : row'.mnemonic = row.mnemonic) : row' = row :=
  List.inj_on_of_nodup_map opcodeTable_mnemonics_nodup h' h hMnemonic

/-- The lookup of the assembler finds the instruction's row by its mnemonic. -/
theorem find_row {w : Nat} {i : Instr} {word : List Char} (h : word = i.mnemonic.toList) :
    opcodeTable.find? (fun row => row.mnemonic.toList == word) = some ⟨i.mnemonic, (encode w i).op⟩ := by
  subst h
  have hMem := mem_opcodeTable w i
  cases hFind : opcodeTable.find? (fun row => row.mnemonic.toList == i.mnemonic.toList) with
  | none => exact absurd (beq_self_eq_true _) (List.find?_eq_none.1 hFind _ hMem)
  | some row =>
    have hFound := List.find?_some hFind
    have hMnemonic : row.mnemonic = i.mnemonic := String.toList_inj.1 (eq_of_beq hFound)
    rw [row_eq_of_mnemonic_eq hMem (List.mem_of_find?_eq_some hFind) hMnemonic]

theorem assemble_eq_ok_iff {w : Nat} {line : String} {i : Instr} :
    assemble w line = .ok i ↔ mnemonicText line = i.mnemonic.toList ∧ OperandsRead w i (operandTexts line) := by
  constructor
  · intro h
    unfold assemble at h
    split at h
    · cases h
    · split at h
      · next row hFind =>
        obtain ⟨hCode, hOperands⟩ := assembleOp_eq_ok_iff.1 h
        have hFound := List.find?_some hFind
        have hRow := row_eq_of_pattern_eq (mem_opcodeTable w i) (List.mem_of_find?_eq_some hFind) (BitVec.eq_of_toNat_eq hCode)
        rw [hRow] at hFound
        exact ⟨(eq_of_beq hFound).symm, hOperands⟩
      · cases h
  · rintro ⟨hMnemonic, hOperands⟩
    have hNe := (mnemonic_word _ (mem_opcodeTable w i)).1
    unfold assemble
    split
    · next hEmpty => exact absurd (by rw [← hMnemonic, mnemonicText, hEmpty]; rfl) hNe
    · rw [find_row (w := w) hMnemonic]
      exact assembleOp_eq_ok_iff.2 ⟨rfl, hOperands⟩

/-- What was read for `IA` fits it, so the instruction can be presented. -/
theorem fitsIntPort_of_readsInteger {w : Nat} {cs : List Char} {i : Int} (h : ReadsInteger w cs i) : fitsIntPort w i = true := by
  obtain ⟨b, -, rfl⟩ := h
  exact decide_eq_true ⟨BitVec.le_two_mul_toInt, BitVec.two_mul_toInt_lt⟩

theorem wellFormed_of_operandsRead {w : Nat} {i : Instr} {texts : List (List Char)} (h : OperandsRead w i texts) :
    i.WellFormed w := by
  cases i with
  | encOs | encCtrl1 | encBarIn | encOffH | encOffP =>
    obtain ⟨x, -, hx⟩ := h
    exact fitsIntPort_of_readsInteger hx
  | _ => rfl

/-! Blanks around and between the words of a line. -/

theorem isBlank_iff (c : Char) : isBlank c = true ↔ c = ' ' ∨ c = '\t' := by simp [isBlank]

/-- No blank at either end. -/
def Framed (cs : List Char) : Prop := (∀ c ∈ cs.head?, isBlank c = false) ∧ ∀ c ∈ cs.getLast?, isBlank c = false

theorem framed_of_no_blank {cs : List Char} (h : ∀ c ∈ cs, isBlank c = false) : Framed cs :=
  ⟨fun c hc => h c (List.mem_of_mem_head? hc), fun c hc => h c (List.mem_of_mem_getLast? hc)⟩

theorem Framed.append {xs ys : List Char} (hx : Framed xs) (hy : Framed ys) (hxNe : xs ≠ []) (hyNe : ys ≠ []) (mid : List Char) :
    Framed (xs ++ mid ++ ys) := by
  refine ⟨?_, ?_⟩
  · rw [List.append_assoc, List.head?_append_of_ne_nil _ hxNe]
    exact hx.1
  · rw [List.getLast?_append_of_ne_nil _ hyNe]
    exact hy.2

theorem dropWhile_blanks {pre cs : List Char} (hPre : Blanks pre) (hHead : ∀ c ∈ cs.head?, isBlank c = false) :
    (pre ++ cs).dropWhile isBlank = cs := by
  rw [List.dropWhile_append_of_pos fun c hc => (isBlank_iff c).2 (hPre c hc)]
  cases cs with
  | nil => rfl
  | cons c cs => exact List.dropWhile_cons_of_neg (by simp [hHead c rfl])

theorem Blanks.append {xs ys : List Char} (hx : Blanks xs) (hy : Blanks ys) : Blanks (xs ++ ys) :=
  fun c hc => (List.mem_append.1 hc).elim (hx c) (hy c)

theorem Blanks.reverse {xs : List Char} (hx : Blanks xs) : Blanks xs.reverse := fun c hc => hx c (List.mem_reverse.1 hc)

/-- Trimming takes the blanks around a text away and nothing of the text. -/
theorem trimBlanks_eq {pre cs post : List Char} (hPre : Blanks pre) (hPost : Blanks post) (h : Framed cs) :
    trimBlanks (pre ++ cs ++ post) = cs := by
  unfold trimBlanks
  cases cs with
  | nil =>
    have hAll := dropWhile_blanks (cs := []) (hPre.append hPost) nofun
    rw [List.append_nil] at hAll ⊢
    rw [hAll]
    rfl
  | cons c cs =>
    rw [List.append_assoc, dropWhile_blanks hPre (by simpa using h.1), List.reverse_append,
      dropWhile_blanks hPost.reverse (by rw [List.head?_reverse]; exact h.2), List.reverse_reverse]

/-! A line written as R76 has it. -/

section Written

variable {texts : List (List Char)} {sep : List Char}

/-- An operand text that stands in a statement: no comma, `;` or blank in it, and something to read. -/
def OperandText (x : List Char) : Prop := x ≠ [] ∧ ∀ c ∈ x, c ≠ ',' ∧ c ≠ ';' ∧ isBlank c = false

theorem OperandText.framed {x : List Char} (h : OperandText x) : Framed x := framed_of_no_blank fun c hc => (h.2 c hc).2.2

theorem writtenOperands_ne_nil (hNe : texts ≠ []) (h : ∀ x ∈ texts, OperandText x) : writtenOperands sep texts ≠ [] := by
  cases texts with
  | nil => exact absurd rfl hNe
  | cons x rest =>
    have hx := (h x (List.mem_cons_self ..)).1
    cases rest with
    | nil => exact hx
    | cons y rest => simp [writtenOperands]

theorem writtenOperands_framed (hNe : texts ≠ []) (h : ∀ x ∈ texts, OperandText x) : Framed (writtenOperands sep texts) := by
  induction texts with
  | nil => exact absurd rfl hNe
  | cons x rest ih =>
    obtain ⟨hx, hRest⟩ := List.forall_mem_cons.1 h
    cases rest with
    | nil => exact hx.framed
    | cons y rest =>
      have hLater := writtenOperands_ne_nil (sep := sep) (List.cons_ne_nil y rest) hRest
      exact hx.framed.append (ih (List.cons_ne_nil y rest) hRest) hx.1 hLater (',' :: sep)

theorem comma_not_mem {pre x : List Char} (hPre : Blanks pre) (hx : OperandText x) : ',' ∉ pre ++ x := by
  intro hMem
  rcases List.mem_append.1 hMem with hc | hc
  · exact absurd (hPre _ hc) (by decide)
  · exact (hx.2 _ hc).1 rfl

/-- The pieces between the commas, trimmed, are the operand texts. -/
theorem piecesAt_writtenOperands (hSep : Blanks sep) {x : List Char} {rest : List (List Char)}
    (h : ∀ y ∈ x :: rest, OperandText y) {pre : List Char} (hPre : Blanks pre) :
    (piecesAt ',' (pre ++ writtenOperands sep (x :: rest))).map trimBlanks = x :: rest := by
  obtain ⟨hx, hRest⟩ := List.forall_mem_cons.1 h
  have hTrim : trimBlanks (pre ++ x) = x := by
    have hTrim := trimBlanks_eq (post := []) hPre nofun hx.framed
    rwa [List.append_nil] at hTrim
  induction rest generalizing x pre with
  | nil => rw [writtenOperands, piecesAt_of_not_mem (comma_not_mem hPre hx), List.map_singleton, hTrim]
  | cons y rest ih =>
    obtain ⟨hy, hLater⟩ := List.forall_mem_cons.1 hRest
    have hTrimY : trimBlanks (sep ++ y) = y := by
      have hTrimY := trimBlanks_eq (post := []) hSep nofun hy.framed
      rwa [List.append_nil] at hTrimY
    have hSplit : pre ++ writtenOperands sep (x :: y :: rest) = (pre ++ x) ++ ',' :: (sep ++ writtenOperands sep (y :: rest)) := by
      simp [writtenOperands]
    rw [hSplit, piecesAt_append (comma_not_mem hPre hx), List.map_cons, hTrim, ih hRest hSep hy hLater hTrimY]

theorem semicolon_not_mem_writtenOperands (hSep : Blanks sep) (h : ∀ x ∈ texts, OperandText x) :
    ';' ∉ writtenOperands sep texts := by
  have hSepFree : ';' ∉ sep := fun hMem => absurd (hSep _ hMem) (by decide)
  induction texts with
  | nil => exact List.not_mem_nil
  | cons x rest ih =>
    obtain ⟨hx, hRest⟩ := List.forall_mem_cons.1 h
    have hxFree : ';' ∉ x := fun hMem => (hx.2 _ hMem).2.1 rfl
    cases rest with
    | nil => exact hxFree
    | cons y rest =>
      have hLater := ih hRest
      simp [writtenOperands, hxFree, hSepFree, hLater]

end Written

/-- The statement of a line is what stands between the blanks before a comment. -/
theorem statementText_eq {line : String} {indent stmt trail comment : List Char}
    (hLine : line.toList = indent ++ stmt ++ trail ++ comment) (hIndent : Blanks indent) (hTrail : Blanks trail)
    (hComment : comment = [] ∨ ∃ text, comment = ';' :: text) (hStmt : ';' ∉ stmt) (hFramed : Framed stmt) :
    statementText line = stmt := by
  have hBefore : ∀ c ∈ indent ++ stmt ++ trail, (c != ';') = true := by
    simp only [List.mem_append, bne_iff_ne, ne_eq]
    rintro c ((hc | hc) | hc) rfl
    · exact absurd (hIndent _ hc) (by decide)
    · exact hStmt hc
    · exact absurd (hTrail _ hc) (by decide)
  have hAfter : comment.takeWhile (fun c => c != ';') = [] := by
    rcases hComment with rfl | ⟨text, rfl⟩
    · rfl
    · rfl
  rw [statementText, hLine, List.takeWhile_append_of_pos hBefore, hAfter, List.append_nil]
  exact trimBlanks_eq hIndent hTrail hFramed

section Words

variable {line : String} {word rest : List Char} (hStatement : statementText line = word ++ rest)
  (hWord : ∀ c ∈ word, isBlank c = false) (hRest : ∀ c ∈ rest.head?, isBlank c = true)
include hStatement hWord hRest

/-- The first word of a statement ends at its first blank. -/
theorem mnemonicText_eq : mnemonicText line = word := by
  rw [mnemonicText, hStatement, List.takeWhile_append_of_pos (by simpa using hWord)]
  cases rest with
  | nil => simp
  | cons c rest => rw [List.takeWhile_cons_of_neg (by simp [hRest c rfl]), List.append_nil]

/-- The operand texts are the pieces of what follows the first word. -/
theorem operandTexts_eq_of_rest {texts : List (List Char)} (hNone : trimBlanks rest = [] → texts = [])
    (hPieces : trimBlanks rest ≠ [] → (piecesAt ',' (trimBlanks rest)).map trimBlanks = texts) : operandTexts line = texts := by
  unfold operandTexts
  rw [mnemonicText_eq hStatement hWord hRest, hStatement, List.drop_left]
  split
  · next h => exact (hNone h).symm
  · next h => exact hPieces h

end Words

/-- A line written as R76 has it has the mnemonic as its first word and the operand texts between its commas. -/
theorem texts_of_writtenAs {line : String} {mnemonic : List Char} {texts : List (List Char)}
    (hWritten : WrittenAs line.toList mnemonic texts) (hNe : mnemonic ≠ [])
    (hMnemonic : ∀ c ∈ mnemonic, c ≠ ';' ∧ isBlank c = false) (hTextsNe : ∀ x ∈ texts, x ≠ []) :
    mnemonicText line = mnemonic ∧ operandTexts line = texts := by
  obtain ⟨hChars, indent, gap, sep, trail, comment, hIndent, hGap, hSep, hTrail, hGapNe, hComment, hLine⟩ := hWritten
  have hTexts : ∀ x ∈ texts, OperandText x := fun x hx => ⟨hTextsNe x hx, fun c hc => by
    obtain ⟨hComma, hSemicolon, hSpace, hTab⟩ := hChars x hx c hc
    exact ⟨hComma, hSemicolon, by simp [isBlank, hSpace, hTab]⟩⟩
  have hWord : ∀ c ∈ mnemonic, isBlank c = false := fun c hc => (hMnemonic c hc).2
  have hFree : ';' ∉ mnemonic := fun hMem => (hMnemonic _ hMem).1 rfl
  rcases eq_or_ne texts [] with rfl | hSome
  · have hStatement : statementText line = mnemonic ++ [] := by
      rw [List.append_nil]
      refine statementText_eq (trail := gap ++ trail) ?_ hIndent (hGap.append hTrail) hComment hFree (framed_of_no_blank hWord)
      simpa [writtenOperands] using hLine
    exact ⟨mnemonicText_eq hStatement hWord nofun, operandTexts_eq_of_rest hStatement hWord nofun (fun _ => rfl) (absurd rfl)⟩
  · have hFramed := writtenOperands_framed (sep := sep) hSome hTexts
    have hWrittenNe := writtenOperands_ne_nil (sep := sep) hSome hTexts
    have hGapFree : ';' ∉ gap := fun hMem => absurd (hGap _ hMem) (by decide)
    have hStatement : statementText line = mnemonic ++ (gap ++ writtenOperands sep texts) := by
      rw [← List.append_assoc]
      refine statementText_eq ?_ hIndent hTrail hComment ?_ ((framed_of_no_blank hWord).append hFramed hNe hWrittenNe gap)
      · simpa using hLine
      · simp [hFree, hGapFree, semicolon_not_mem_writtenOperands hSep hTexts]
    have hHead : ∀ c ∈ (gap ++ writtenOperands sep texts).head?, isBlank c = true := by
      rw [List.head?_append_of_ne_nil _ (hGapNe.resolve_left hSome)]
      exact fun c hc => (isBlank_iff c).2 (hGap c (List.mem_of_mem_head? hc))
    have hBody : trimBlanks (gap ++ writtenOperands sep texts) = writtenOperands sep texts := by
      have hTrim := trimBlanks_eq (post := []) hGap nofun hFramed
      rwa [List.append_nil] at hTrim
    refine ⟨mnemonicText_eq hStatement hWord hHead, operandTexts_eq_of_rest hStatement hWord hHead ?_ ?_⟩
    · rw [hBody]
      exact fun h => absurd h hWrittenNe
    · obtain ⟨x, rest, rfl⟩ := List.exists_cons_of_ne_nil hSome
      rw [hBody]
      exact fun _ => piecesAt_writtenOperands (pre := []) hSep hTexts nofun

theorem ne_nil_of_readsPort {n : Nat} {cs : List Char} {b : BitVec n} (h : ReadsPort n cs b) : cs ≠ [] := by
  rintro rfl
  obtain ⟨i, hRead, -⟩ := h
  cases hRead

/-- No literal is the empty text. -/
theorem ne_nil_of_operandsRead {w : Nat} {i : Instr} {texts : List (List Char)} (h : OperandsRead w i texts) :
    ∀ x ∈ texts, x ≠ [] := by
  cases i with
  | decQ16_4 | decQ18_2 =>
    obtain ⟨x, y, z, rfl, hx, hy, hz⟩ := h
    simp [ne_nil_of_readsPort hx, ne_nil_of_readsPort hy, ne_nil_of_readsPort hz]
  | decQ8_4 =>
    obtain ⟨x, y, rfl, hx, hy⟩ := h
    simp [ne_nil_of_readsPort hx, ne_nil_of_readsPort hy]
  | encOs | encBarIn | encOffH | encOffP | encCtrl1 =>
    obtain ⟨x, rfl, b, hx, -⟩ := h
    simp [ne_nil_of_readsPort hx]
  | decCtrl1 | decStatus | regWidth =>
    obtain ⟨x, rfl, hx⟩ := h
    simp [ne_nil_of_readsPort hx]
  | encAlt | encRst | encSbyb | encEvent | defSlp =>
    cases h
    simp
  | encOffT =>
    obtain ⟨x, rfl, hx⟩ := h
    refine List.forall_mem_singleton.2 ?_
    rintro rfl
    cases hx

/-- Settles O45: the assembler finds the row of the line's first word and reads the operands one by one; what was read fits its port; a
written line has that word and those operands; and digits denote their number. -/
theorem assembledInstructionsArePresentable : Obligations.AssembledInstructionsArePresentable := by
  unfold Obligations.AssembledInstructionsArePresentable
  refine ⟨fun w line i hLine => ?_, fun w line i => assemble_eq_ok_iff, fun w line i texts hWritten hTexts => ?_,
    fun ds h => ⟨parseInteger_decimal h, parseInteger_negative h⟩, fun ds h => parseInteger_hex h,
    fun ds fs h hf => ⟨?_, ?_, fun hNe => ⟨?_, ?_⟩⟩⟩
  · have hFits := wellFormed_of_operandsRead (assemble_eq_ok_iff.1 hLine).2
    exact ⟨hFits, decode_encode hFits⟩
  · obtain ⟨hNe, hChars⟩ := mnemonic_word _ (mem_opcodeTable w i)
    obtain ⟨hWord, hOperands⟩ := texts_of_writtenAs hWritten hNe hChars (ne_nil_of_operandsRead hTexts)
    exact assemble_eq_ok_iff.2 ⟨hWord, hOperands ▸ hTexts⟩
  · rw [parseCelsius_fraction h hf (takeSign_separated h hf (by decide) (by decide)), mkRat_decimal]
    rfl
  · rw [List.cons_append, parseCelsius_fraction (negative := true) h hf rfl, mkRat_decimal]
    rfl
  · rw [parseCelsius_quotient h hf hNe (takeSign_separated h hf (by decide) (by decide)), mkRat_quotient]
    rfl
  · rw [List.cons_append, parseCelsius_quotient (negative := true) h hf hNe rfl, mkRat_quotient]
    rfl

end Sys2Proof.Machine
end
